-- ==== Sys2Proof/Word.lean ====
section
/-! DEFINITION. The word types of OBLE (00_scope.md R9, R10) and the two fixed-length rows the spec uses:
seven of a kind (frames, WBUF, ORDER: R48, R55, R300) and eight of a kind (the 8×8 block of R320). -/

namespace Sys2Proof

/-- A bus byte (R9). -/
abbrev Byte := BitVec 8

/-- A frame or write-buffer word (R9, R55). -/
abbrev Word := BitVec 16

/-- A 12-bit length field, LA or LB (R112). -/
abbrev Len := BitVec 12

/-- Seven values of one type, indexed 0..6. -/
structure Seven (α : Type) where
  a0 : α
  a1 : α
  a2 : α
  a3 : α
  a4 : α
  a5 : α
  a6 : α
  deriving DecidableEq, Repr, Inhabited

/-- Entry `i` of a row of seven. -/
def Seven.get {α : Type} (v : Seven α) (i : Fin 7) : α :=
  match i with
  | 0 => v.a0
  | 1 => v.a1
  | 2 => v.a2
  | 3 => v.a3
  | 4 => v.a4
  | 5 => v.a5
  | 6 => v.a6

/-- The row with entry `i` replaced by `x`. -/
def Seven.set {α : Type} (v : Seven α) (i : Fin 7) (x : α) : Seven α :=
  match i with
  | 0 => { v with a0 := x }
  | 1 => { v with a1 := x }
  | 2 => { v with a2 := x }
  | 3 => { v with a3 := x }
  | 4 => { v with a4 := x }
  | 5 => { v with a5 := x }
  | 6 => { v with a6 := x }

/-- The row whose entry `i` is `f i`. -/
def Seven.ofFn {α : Type} (f : Fin 7 → α) : Seven α :=
  ⟨f 0, f 1, f 2, f 3, f 4, f 5, f 6⟩

/-- The row with `f` applied to every entry. -/
def Seven.map {α β : Type} (f : α → β) (v : Seven α) : Seven β :=
  ⟨f v.a0, f v.a1, f v.a2, f v.a3, f v.a4, f v.a5, f v.a6⟩

/-- The entries in index order. -/
def Seven.toList {α : Type} (v : Seven α) : List α :=
  [v.a0, v.a1, v.a2, v.a3, v.a4, v.a5, v.a6]

/-- The row holding `x` everywhere. -/
def Seven.replicate {α : Type} (x : α) : Seven α := ⟨x, x, x, x, x, x, x⟩

/-- The indices 0..6 in order, for the loops `for i in 0..6` of 43_layout.md. -/
def seven : List (Fin 7) := [0, 1, 2, 3, 4, 5, 6]

/-- Eight values of one type, indexed 0..7. -/
structure Eight (α : Type) where
  b0 : α
  b1 : α
  b2 : α
  b3 : α
  b4 : α
  b5 : α
  b6 : α
  b7 : α
  deriving DecidableEq, Repr, Inhabited

/-- Entry `i` of a row of eight. -/
def Eight.get {α : Type} (v : Eight α) (i : Fin 8) : α :=
  match i with
  | 0 => v.b0
  | 1 => v.b1
  | 2 => v.b2
  | 3 => v.b3
  | 4 => v.b4
  | 5 => v.b5
  | 6 => v.b6
  | 7 => v.b7

/-- The row whose entry `i` is `f i`. -/
def Eight.ofFn {α : Type} (f : Fin 8 → α) : Eight α :=
  ⟨f 0, f 1, f 2, f 3, f 4, f 5, f 6, f 7⟩

/-- The entries in index order. -/
def Eight.toList {α : Type} (v : Eight α) : List α :=
  [v.b0, v.b1, v.b2, v.b3, v.b4, v.b5, v.b6, v.b7]

/-- A logical or physical LED frame: seven 16-bit words (R55, R300). -/
abbrev Frame := Seven Word

/-- The block of eight bytes of the 8×8 transpose (R320). -/
abbrev Block := Eight Byte

end Sys2Proof
end

