-- ==== Sys2Proof/Syntax.lean ====
section
/-! DEFINITION. The syntax of OBLE: one constructor for each row of the opcode map (30_encoding.md R114 to R120).
A command is a pair of a command word and a payload (00_scope.md R15), so every constructor holds the row's operand
fields, taken from LA and LB (R113), and the payload bytes TXP. -/

namespace Sys2Proof

/-- A command of OBLE: the row of the opcode map, its operand fields and its payload. -/
inductive Instr where
  -- UNIT 1, the I2C engine (30_encoding.md R115)
  /-- I2C.READ_CMD_DATA, R197. -/
  | i2cReadCmdData (m : Len) (n : Len) (txp : List Byte)
  /-- I2C.READ_DATA, R198. -/
  | i2cReadData (n : Len) (txp : List Byte)
  /-- I2C.READ_BYTE, R199. -/
  | i2cReadByte (txp : List Byte)
  /-- I2C.WRITE_CMD_DATA, R194. -/
  | i2cWriteCmdData (m : Len) (n : Len) (txp : List Byte)
  /-- I2C.WRITE_DATA, R195. -/
  | i2cWriteData (n : Len) (txp : List Byte)
  /-- I2C.WRITE_BYTE, R196. -/
  | i2cWriteByte (b : Byte) (txp : List Byte)
  /-- I2C.START, R200. -/
  | i2cStart (txp : List Byte)
  /-- I2C.STOP, R201. -/
  | i2cStop (txp : List Byte)
  /-- I2C.TXBIT, R202. -/
  | i2cTxBit (bit : Bool) (txp : List Byte)
  /-- I2C.RXBIT, R203. -/
  | i2cRxBit (txp : List Byte)
  /-- I2C.ACKPOLL, R204. -/
  | i2cAckPoll (txp : List Byte)
  /-- I2C.TXBYTE, R205. -/
  | i2cTxByte (b : Byte) (txp : List Byte)
  /-- I2C.RXBYTE, R206. -/
  | i2cRxByte (ack : Bool) (txp : List Byte)
  /-- I2C.ADDR, R207. -/
  | i2cAddr (combined : Bool) (rw : Bool) (txp : List Byte)
  -- UNIT 2, the TW engine (R116)
  /-- TW.READ_CMD_DATA, R149. -/
  | twReadCmdData (m : Len) (n : Len) (txp : List Byte)
  /-- TW.READ_DATA, R150. -/
  | twReadData (n : Len) (txp : List Byte)
  /-- TW.READ_BYTE, R151. -/
  | twReadByte (txp : List Byte)
  /-- TW.WRITE_CMD_DATA, R152. -/
  | twWriteCmdData (m : Len) (n : Len) (txp : List Byte)
  /-- TW.WRITE_DATA, R153. -/
  | twWriteData (n : Len) (txp : List Byte)
  /-- TW.WRITE_BYTE, R154. -/
  | twWriteByte (b : Byte) (txp : List Byte)
  /-- TW.BEGIN, R155. -/
  | twBegin (txp : List Byte)
  /-- TW.END, R156. -/
  | twEnd (txp : List Byte)
  /-- TW.TXBIT, R157. -/
  | twTxBit (bit : Bool) (txp : List Byte)
  /-- TW.RXBIT, R158. -/
  | twRxBit (txp : List Byte)
  /-- TW.TXBYTE, R159. -/
  | twTxByte (b : Byte) (txp : List Byte)
  /-- TW.RXBYTE, R160. -/
  | twRxByte (txp : List Byte)
  -- UNIT 3, the controller (R117)
  /-- CTL.INIT, R241. -/
  | ctlInit (txp : List Byte)
  /-- CTL.GET_BRIGHTNESS, R242. -/
  | ctlGetBrightness (txp : List Byte)
  /-- CTL.SET_BRIGHTNESS, R243. -/
  | ctlSetBrightness (level : Byte) (txp : List Byte)
  /-- CTL.GET_POWER, R244. -/
  | ctlGetPower (txp : List Byte)
  /-- CTL.SET_POWER, R245. -/
  | ctlSetPower (on : Bool) (txp : List Byte)
  /-- CTL.GET_DESCRIPTOR, R246. -/
  | ctlGetDescriptor (txp : List Byte)
  /-- CTL.SET_DESCRIPTOR, R247. -/
  | ctlSetDescriptor (txp : List Byte)
  /-- CTL.SET_ICON, R248. -/
  | ctlSetIcon (id : BitVec 4) (on : Bool) (txp : List Byte)
  /-- CTL.READ_RAW, R249. -/
  | ctlReadRaw (n : Len) (txp : List Byte)
  /-- CTL.WRITE_RAW, R250. -/
  | ctlWriteRaw (n : Len) (txp : List Byte)
  /-- CTL.WRITE_DISPLAY_FRAME, R251. -/
  | ctlWriteDisplayFrame (size : Len) (txp : List Byte)
  /-- CTL.SET_ORDER, R252. -/
  | ctlSetOrder (txp : List Byte)
  /-- CTL.SET_INDICATOR_MASK, R253. -/
  | ctlSetIndicatorMask (txp : List Byte)
  /-- CTL.GET_MODE, R254. -/
  | ctlGetMode (txp : List Byte)
  /-- CTL.SET_MODE, R255. -/
  | ctlSetMode (mode : Byte) (txp : List Byte)
  /-- CTL.RELOAD_DEFAULTS, R256. -/
  | ctlReloadDefaults (txp : List Byte)
  -- UNIT 4, the layout datapath (R118)
  /-- DP.TRANSPOSE8, R323. -/
  | dpTranspose8 (txp : List Byte)
  /-- DP.SCATTER, R324. -/
  | dpScatter (txp : List Byte)
  /-- DP.XF_DIRECT, R325. -/
  | dpXfDirect (txp : List Byte)
  /-- DP.XF_TRANSPOSED, R326. -/
  | dpXfTransposed (txp : List Byte)
  /-- DP.XF_NARROW5, R327. -/
  | dpXfNarrow5 (txp : List Byte)
  /-- DP.XF_MUXEXT, R328. -/
  | dpXfMuxext (txp : List Byte)
  /-- DP.CHAR_TO_MASK, R329. -/
  | dpCharToMask (code : Byte) (txp : List Byte)
  /-- DP.LED_CLOCK, R330. -/
  | dpLedClock (seconds : BitVec 6) (colon : Bool) (hours : BitVec 5) (minutes : BitVec 6) (txp : List Byte)
  -- UNIT 5, the OLED window port (R119)
  /-- OLED.CMD, R362. -/
  | oledCmd (n : Len) (txp : List Byte)
  /-- OLED.DATA, R363. -/
  | oledData (n : Len) (txp : List Byte)
  /-- OLED.WINDOW, R364. -/
  | oledWindow (n : Len) (txp : List Byte)
  /-- OLED.CLEAR, R365. -/
  | oledClear (txp : List Byte)
  -- UNIT 6, MISC (R120)
  /-- MISC.GET_VERSION, R257. -/
  | miscGetVersion (txp : List Byte)
  deriving DecidableEq, Repr

/-- The payload TXP of a command (R15, R110). -/
def Instr.txp (i : Instr) : List Byte :=
  match i with
  | .i2cReadCmdData _ _ txp => txp
  | .i2cReadData _ txp => txp
  | .i2cReadByte txp => txp
  | .i2cWriteCmdData _ _ txp => txp
  | .i2cWriteData _ txp => txp
  | .i2cWriteByte _ txp => txp
  | .i2cStart txp => txp
  | .i2cStop txp => txp
  | .i2cTxBit _ txp => txp
  | .i2cRxBit txp => txp
  | .i2cAckPoll txp => txp
  | .i2cTxByte _ txp => txp
  | .i2cRxByte _ txp => txp
  | .i2cAddr _ _ txp => txp
  | .twReadCmdData _ _ txp => txp
  | .twReadData _ txp => txp
  | .twReadByte txp => txp
  | .twWriteCmdData _ _ txp => txp
  | .twWriteData _ txp => txp
  | .twWriteByte _ txp => txp
  | .twBegin txp => txp
  | .twEnd txp => txp
  | .twTxBit _ txp => txp
  | .twRxBit txp => txp
  | .twTxByte _ txp => txp
  | .twRxByte txp => txp
  | .ctlInit txp => txp
  | .ctlGetBrightness txp => txp
  | .ctlSetBrightness _ txp => txp
  | .ctlGetPower txp => txp
  | .ctlSetPower _ txp => txp
  | .ctlGetDescriptor txp => txp
  | .ctlSetDescriptor txp => txp
  | .ctlSetIcon _ _ txp => txp
  | .ctlReadRaw _ txp => txp
  | .ctlWriteRaw _ txp => txp
  | .ctlWriteDisplayFrame _ txp => txp
  | .ctlSetOrder txp => txp
  | .ctlSetIndicatorMask txp => txp
  | .ctlGetMode txp => txp
  | .ctlSetMode _ txp => txp
  | .ctlReloadDefaults txp => txp
  | .dpTranspose8 txp => txp
  | .dpScatter txp => txp
  | .dpXfDirect txp => txp
  | .dpXfTransposed txp => txp
  | .dpXfNarrow5 txp => txp
  | .dpXfMuxext txp => txp
  | .dpCharToMask _ txp => txp
  | .dpLedClock _ _ _ _ txp => txp
  | .oledCmd _ txp => txp
  | .oledData _ txp => txp
  | .oledWindow _ txp => txp
  | .oledClear txp => txp
  | .miscGetVersion txp => txp

/-- The mnemonic of a command (R115 to R120). -/
def Instr.mnemonic (i : Instr) : String :=
  match i with
  | .i2cReadCmdData _ _ _ => "I2C.READ_CMD_DATA"
  | .i2cReadData _ _ => "I2C.READ_DATA"
  | .i2cReadByte _ => "I2C.READ_BYTE"
  | .i2cWriteCmdData _ _ _ => "I2C.WRITE_CMD_DATA"
  | .i2cWriteData _ _ => "I2C.WRITE_DATA"
  | .i2cWriteByte _ _ => "I2C.WRITE_BYTE"
  | .i2cStart _ => "I2C.START"
  | .i2cStop _ => "I2C.STOP"
  | .i2cTxBit _ _ => "I2C.TXBIT"
  | .i2cRxBit _ => "I2C.RXBIT"
  | .i2cAckPoll _ => "I2C.ACKPOLL"
  | .i2cTxByte _ _ => "I2C.TXBYTE"
  | .i2cRxByte _ _ => "I2C.RXBYTE"
  | .i2cAddr _ _ _ => "I2C.ADDR"
  | .twReadCmdData _ _ _ => "TW.READ_CMD_DATA"
  | .twReadData _ _ => "TW.READ_DATA"
  | .twReadByte _ => "TW.READ_BYTE"
  | .twWriteCmdData _ _ _ => "TW.WRITE_CMD_DATA"
  | .twWriteData _ _ => "TW.WRITE_DATA"
  | .twWriteByte _ _ => "TW.WRITE_BYTE"
  | .twBegin _ => "TW.BEGIN"
  | .twEnd _ => "TW.END"
  | .twTxBit _ _ => "TW.TXBIT"
  | .twRxBit _ => "TW.RXBIT"
  | .twTxByte _ _ => "TW.TXBYTE"
  | .twRxByte _ => "TW.RXBYTE"
  | .ctlInit _ => "CTL.INIT"
  | .ctlGetBrightness _ => "CTL.GET_BRIGHTNESS"
  | .ctlSetBrightness _ _ => "CTL.SET_BRIGHTNESS"
  | .ctlGetPower _ => "CTL.GET_POWER"
  | .ctlSetPower _ _ => "CTL.SET_POWER"
  | .ctlGetDescriptor _ => "CTL.GET_DESCRIPTOR"
  | .ctlSetDescriptor _ => "CTL.SET_DESCRIPTOR"
  | .ctlSetIcon _ _ _ => "CTL.SET_ICON"
  | .ctlReadRaw _ _ => "CTL.READ_RAW"
  | .ctlWriteRaw _ _ => "CTL.WRITE_RAW"
  | .ctlWriteDisplayFrame _ _ => "CTL.WRITE_DISPLAY_FRAME"
  | .ctlSetOrder _ => "CTL.SET_ORDER"
  | .ctlSetIndicatorMask _ => "CTL.SET_INDICATOR_MASK"
  | .ctlGetMode _ => "CTL.GET_MODE"
  | .ctlSetMode _ _ => "CTL.SET_MODE"
  | .ctlReloadDefaults _ => "CTL.RELOAD_DEFAULTS"
  | .dpTranspose8 _ => "DP.TRANSPOSE8"
  | .dpScatter _ => "DP.SCATTER"
  | .dpXfDirect _ => "DP.XF_DIRECT"
  | .dpXfTransposed _ => "DP.XF_TRANSPOSED"
  | .dpXfNarrow5 _ => "DP.XF_NARROW5"
  | .dpXfMuxext _ => "DP.XF_MUXEXT"
  | .dpCharToMask _ _ => "DP.CHAR_TO_MASK"
  | .dpLedClock _ _ _ _ _ => "DP.LED_CLOCK"
  | .oledCmd _ _ => "OLED.CMD"
  | .oledData _ _ => "OLED.DATA"
  | .oledWindow _ _ => "OLED.WINDOW"
  | .oledClear _ => "OLED.CLEAR"
  | .miscGetVersion _ => "MISC.GET_VERSION"

end Sys2Proof
end

