-- ==== Sys2Proof/WellFormed.lean ====
section
/-! DEFINITION. Well-formed commands: the payload has the length the command word fixes (30_encoding.md R111, R123).
Every other constraint of the encoding is carried by the types of the operand fields. -/

namespace Sys2Proof

/-- |TXP| of the row, as a function of its length fields (the |TXP| columns of R115 to R120). -/
def Instr.payloadLength (i : Instr) : Nat :=
  match i with
  | .i2cReadCmdData m _ _ => m.toNat
  | .i2cReadData _ _ => 0
  | .i2cReadByte _ => 0
  | .i2cWriteCmdData m n _ => m.toNat + n.toNat
  | .i2cWriteData n _ => n.toNat
  | .i2cWriteByte _ _ => 0
  | .i2cStart _ => 0
  | .i2cStop _ => 0
  | .i2cTxBit _ _ => 0
  | .i2cRxBit _ => 0
  | .i2cAckPoll _ => 0
  | .i2cTxByte _ _ => 0
  | .i2cRxByte _ _ => 0
  | .i2cAddr _ _ _ => 0
  | .twReadCmdData m _ _ => m.toNat
  | .twReadData _ _ => 0
  | .twReadByte _ => 0
  | .twWriteCmdData m n _ => m.toNat + n.toNat
  | .twWriteData n _ => n.toNat
  | .twWriteByte _ _ => 0
  | .twBegin _ => 0
  | .twEnd _ => 0
  | .twTxBit _ _ => 0
  | .twRxBit _ => 0
  | .twTxByte _ _ => 0
  | .twRxByte _ => 0
  | .ctlInit _ => 0
  | .ctlGetBrightness _ => 0
  | .ctlSetBrightness _ _ => 0
  | .ctlGetPower _ => 0
  | .ctlSetPower _ _ => 0
  | .ctlGetDescriptor _ => 0
  | .ctlSetDescriptor _ => 4
  | .ctlSetIcon _ _ _ => 0
  | .ctlReadRaw _ _ => 0
  | .ctlWriteRaw n _ => 2 * n.toNat
  | .ctlWriteDisplayFrame size _ => size.toNat
  | .ctlSetOrder _ => 7
  | .ctlSetIndicatorMask _ => 2
  | .ctlGetMode _ => 0
  | .ctlSetMode _ _ => 0
  | .ctlReloadDefaults _ => 0
  | .dpTranspose8 _ => 8
  | .dpScatter _ => 14
  | .dpXfDirect _ => 14
  | .dpXfTransposed _ => 14
  | .dpXfNarrow5 _ => 14
  | .dpXfMuxext _ => 14
  | .dpCharToMask _ _ => 0
  | .dpLedClock _ _ _ _ _ => 0
  | .oledCmd n _ => n.toNat
  | .oledData n _ => n.toNat
  | .oledWindow n _ => 4 + n.toNat
  | .oledClear _ => 0
  | .miscGetVersion _ => 0

/-- The one check of a command's form: its payload is as long as its command word says (R123). -/
def Instr.wellFormed (i : Instr) : Bool := decide (i.txp.length = i.payloadLength)

/-- A command whose payload has the length its word fixes. -/
abbrev Instr.WellFormed (i : Instr) : Prop := i.wellFormed = true

end Sys2Proof
end

