-- ==== Sys2Proof/Decode.lean ====
section
/-! DEFINITION. The command encoding (30_encoding.md): the fields of a command word, the total decoder, which rejects by
name, the encoder, and the payload a word asks for. Nothing here reads state: no mode bit changes decoding (R111). -/

namespace Sys2Proof

/-- A command as it stands at the command port: the pair (CW, TXP) of R15 and R110. -/
structure Command where
  cw : BitVec 32
  txp : List Byte
  deriving DecidableEq, Repr

/-- The fields of a command word (R112): UNIT and OP as one byte CW[31:24], LA and LB. -/
structure Fields where
  op : Byte
  la : Len
  lb : Len
  deriving DecidableEq, Repr

/-- CW[31:24], CW[23:12] and CW[11:0] (R112). -/
def fieldsOfWord (cw : BitVec 32) : Fields :=
  { op := cw.extractLsb' 24 8, la := cw.extractLsb' 12 12, lb := cw.extractLsb' 0 12 }

/-- `CW = UNIT<<28 | OP<<24 | LA<<12 | LB` (R127). -/
def wordOfFields (f : Fields) : BitVec 32 :=
  f.op.setWidth 32 <<< 24 ||| f.la.setWidth 32 <<< 12 ||| f.lb.setWidth 32

/-- Why a command word is illegal (R122): each cause under its own name. -/
inductive DecodeError where
  /-- UNIT is 0x0 or 0x7..0xF (R114, R122). -/
  | reservedUnit
  /-- The unit exists and its OP is marked reserved (R115 to R120, R122). -/
  | reservedOp
  /-- A field marked MBZ is not zero (R121, R122). -/
  | mustBeZero
  deriving DecidableEq, Repr

/-- A one-bit immediate in LB[0], the other bits of LB zero (R113). -/
def bitField (b : Bool) : Len := if b then 1 else 0

/-- The row is selected when its MBZ bits are zero (R121). -/
def whenZero (mbz : Bool) (i : Instr) : Except DecodeError Instr :=
  if mbz then .ok i else .error .mustBeZero

/-- LA is MBZ and LB is MBZ. -/
def noOperand (f : Fields) (i : Instr) : Except DecodeError Instr :=
  whenZero (decide (f.la = 0 ∧ f.lb = 0)) i

/-- LA is MBZ; LB is a whole length field. -/
def lengthOperand (f : Fields) (i : Len → Instr) : Except DecodeError Instr :=
  whenZero (decide (f.la = 0)) (i f.lb)

/-- LA and LB[11:8] are MBZ; LB[7:0] is a byte immediate (R113). -/
def byteOperand (f : Fields) (i : Byte → Instr) : Except DecodeError Instr :=
  whenZero (decide (f.la = 0 ∧ f.lb.extractLsb' 8 4 = 0)) (i (f.lb.extractLsb' 0 8))

/-- LA and LB[11:1] are MBZ; LB[0] is a bit immediate (R113). -/
def bitOperand (f : Fields) (i : Bool → Instr) : Except DecodeError Instr :=
  whenZero (decide (f.la = 0 ∧ f.lb.extractLsb' 1 11 = 0)) (i (f.lb.getLsbD 0))

/-- The rows of the opcode map (R115 to R120): UNIT:OP selects the row, then its MBZ fields are checked. -/
def decodeFields (f : Fields) (txp : List Byte) : Except DecodeError Instr :=
  match f.op with
  | 0x10#8 => .ok (.i2cReadCmdData f.la f.lb txp)
  | 0x11#8 => lengthOperand f (fun n => .i2cReadData n txp)
  | 0x12#8 => noOperand f (.i2cReadByte txp)
  | 0x13#8 => .ok (.i2cWriteCmdData f.la f.lb txp)
  | 0x14#8 => lengthOperand f (fun n => .i2cWriteData n txp)
  | 0x15#8 => byteOperand f (fun b => .i2cWriteByte b txp)
  | 0x18#8 => noOperand f (.i2cStart txp)
  | 0x19#8 => noOperand f (.i2cStop txp)
  | 0x1A#8 => bitOperand f (fun b => .i2cTxBit b txp)
  | 0x1B#8 => noOperand f (.i2cRxBit txp)
  | 0x1C#8 => noOperand f (.i2cAckPoll txp)
  | 0x1D#8 => byteOperand f (fun b => .i2cTxByte b txp)
  | 0x1E#8 => bitOperand f (fun b => .i2cRxByte b txp)
  | 0x1F#8 => whenZero (decide (f.la = 0 ∧ f.lb.extractLsb' 2 10 = 0)) (.i2cAddr (f.lb.getLsbD 1) (f.lb.getLsbD 0) txp)
  | 0x20#8 => .ok (.twReadCmdData f.la f.lb txp)
  | 0x21#8 => lengthOperand f (fun n => .twReadData n txp)
  | 0x22#8 => noOperand f (.twReadByte txp)
  | 0x23#8 => .ok (.twWriteCmdData f.la f.lb txp)
  | 0x24#8 => lengthOperand f (fun n => .twWriteData n txp)
  | 0x25#8 => byteOperand f (fun b => .twWriteByte b txp)
  | 0x28#8 => noOperand f (.twBegin txp)
  | 0x29#8 => noOperand f (.twEnd txp)
  | 0x2A#8 => bitOperand f (fun b => .twTxBit b txp)
  | 0x2B#8 => noOperand f (.twRxBit txp)
  | 0x2D#8 => byteOperand f (fun b => .twTxByte b txp)
  | 0x2E#8 => noOperand f (.twRxByte txp)
  | 0x30#8 => noOperand f (.ctlInit txp)
  | 0x31#8 => noOperand f (.ctlGetBrightness txp)
  | 0x32#8 => byteOperand f (fun b => .ctlSetBrightness b txp)
  | 0x33#8 => noOperand f (.ctlGetPower txp)
  | 0x34#8 => bitOperand f (fun b => .ctlSetPower b txp)
  | 0x35#8 => noOperand f (.ctlGetDescriptor txp)
  | 0x36#8 => noOperand f (.ctlSetDescriptor txp)
  | 0x37#8 => whenZero (decide (f.la.extractLsb' 4 8 = 0 ∧ f.lb.extractLsb' 1 11 = 0)) (.ctlSetIcon (f.la.extractLsb' 0 4) (f.lb.getLsbD 0) txp)
  | 0x38#8 => lengthOperand f (fun n => .ctlReadRaw n txp)
  | 0x39#8 => lengthOperand f (fun n => .ctlWriteRaw n txp)
  | 0x3A#8 => lengthOperand f (fun n => .ctlWriteDisplayFrame n txp)
  | 0x3B#8 => noOperand f (.ctlSetOrder txp)
  | 0x3C#8 => noOperand f (.ctlSetIndicatorMask txp)
  | 0x3D#8 => noOperand f (.ctlGetMode txp)
  | 0x3E#8 => byteOperand f (fun b => .ctlSetMode b txp)
  | 0x3F#8 => noOperand f (.ctlReloadDefaults txp)
  | 0x40#8 => noOperand f (.dpTranspose8 txp)
  | 0x41#8 => noOperand f (.dpScatter txp)
  | 0x42#8 => noOperand f (.dpXfDirect txp)
  | 0x43#8 => noOperand f (.dpXfTransposed txp)
  | 0x44#8 => noOperand f (.dpXfNarrow5 txp)
  | 0x45#8 => noOperand f (.dpXfMuxext txp)
  | 0x46#8 => byteOperand f (fun b => .dpCharToMask b txp)
  | 0x47#8 => whenZero (decide (f.lb.extractLsb' 6 6 = 0)) (.dpLedClock (f.la.extractLsb' 6 6) (f.la.getLsbD 5) (f.la.extractLsb' 0 5) (f.lb.extractLsb' 0 6) txp)
  | 0x50#8 => lengthOperand f (fun n => .oledCmd n txp)
  | 0x51#8 => lengthOperand f (fun n => .oledData n txp)
  | 0x52#8 => lengthOperand f (fun n => .oledWindow n txp)
  | 0x53#8 => noOperand f (.oledClear txp)
  | 0x60#8 => noOperand f (.miscGetVersion txp)
  | op => .error (if 0x10 ≤ op.toNat ∧ op.toNat < 0x70 then .reservedOp else .reservedUnit)

/-- The decoder: total on every 32-bit word and every payload (R122). The payload's length is not examined here: a wrong
length is the result LENGTH of the decoded command (R123, R408). -/
def decode (c : Command) : Except DecodeError Instr := decodeFields (fieldsOfWord c.cw) c.txp

/-- The fields of a command's word (R113, R115 to R120), MBZ fields zero. -/
def fieldsOfInstr (i : Instr) : Fields :=
  match i with
  | .i2cReadCmdData m n _ => ⟨0x10#8, m, n⟩
  | .i2cReadData n _ => ⟨0x11#8, 0, n⟩
  | .i2cReadByte _ => ⟨0x12#8, 0, 0⟩
  | .i2cWriteCmdData m n _ => ⟨0x13#8, m, n⟩
  | .i2cWriteData n _ => ⟨0x14#8, 0, n⟩
  | .i2cWriteByte b _ => ⟨0x15#8, 0, b.setWidth 12⟩
  | .i2cStart _ => ⟨0x18#8, 0, 0⟩
  | .i2cStop _ => ⟨0x19#8, 0, 0⟩
  | .i2cTxBit bit _ => ⟨0x1A#8, 0, bitField bit⟩
  | .i2cRxBit _ => ⟨0x1B#8, 0, 0⟩
  | .i2cAckPoll _ => ⟨0x1C#8, 0, 0⟩
  | .i2cTxByte b _ => ⟨0x1D#8, 0, b.setWidth 12⟩
  | .i2cRxByte ack _ => ⟨0x1E#8, 0, bitField ack⟩
  | .i2cAddr combined rw _ => ⟨0x1F#8, 0, bitField combined <<< 1 ||| bitField rw⟩
  | .twReadCmdData m n _ => ⟨0x20#8, m, n⟩
  | .twReadData n _ => ⟨0x21#8, 0, n⟩
  | .twReadByte _ => ⟨0x22#8, 0, 0⟩
  | .twWriteCmdData m n _ => ⟨0x23#8, m, n⟩
  | .twWriteData n _ => ⟨0x24#8, 0, n⟩
  | .twWriteByte b _ => ⟨0x25#8, 0, b.setWidth 12⟩
  | .twBegin _ => ⟨0x28#8, 0, 0⟩
  | .twEnd _ => ⟨0x29#8, 0, 0⟩
  | .twTxBit bit _ => ⟨0x2A#8, 0, bitField bit⟩
  | .twRxBit _ => ⟨0x2B#8, 0, 0⟩
  | .twTxByte b _ => ⟨0x2D#8, 0, b.setWidth 12⟩
  | .twRxByte _ => ⟨0x2E#8, 0, 0⟩
  | .ctlInit _ => ⟨0x30#8, 0, 0⟩
  | .ctlGetBrightness _ => ⟨0x31#8, 0, 0⟩
  | .ctlSetBrightness level _ => ⟨0x32#8, 0, level.setWidth 12⟩
  | .ctlGetPower _ => ⟨0x33#8, 0, 0⟩
  | .ctlSetPower on _ => ⟨0x34#8, 0, bitField on⟩
  | .ctlGetDescriptor _ => ⟨0x35#8, 0, 0⟩
  | .ctlSetDescriptor _ => ⟨0x36#8, 0, 0⟩
  | .ctlSetIcon id on _ => ⟨0x37#8, id.setWidth 12, bitField on⟩
  | .ctlReadRaw n _ => ⟨0x38#8, 0, n⟩
  | .ctlWriteRaw n _ => ⟨0x39#8, 0, n⟩
  | .ctlWriteDisplayFrame size _ => ⟨0x3A#8, 0, size⟩
  | .ctlSetOrder _ => ⟨0x3B#8, 0, 0⟩
  | .ctlSetIndicatorMask _ => ⟨0x3C#8, 0, 0⟩
  | .ctlGetMode _ => ⟨0x3D#8, 0, 0⟩
  | .ctlSetMode mode _ => ⟨0x3E#8, 0, mode.setWidth 12⟩
  | .ctlReloadDefaults _ => ⟨0x3F#8, 0, 0⟩
  | .dpTranspose8 _ => ⟨0x40#8, 0, 0⟩
  | .dpScatter _ => ⟨0x41#8, 0, 0⟩
  | .dpXfDirect _ => ⟨0x42#8, 0, 0⟩
  | .dpXfTransposed _ => ⟨0x43#8, 0, 0⟩
  | .dpXfNarrow5 _ => ⟨0x44#8, 0, 0⟩
  | .dpXfMuxext _ => ⟨0x45#8, 0, 0⟩
  | .dpCharToMask code _ => ⟨0x46#8, 0, code.setWidth 12⟩
  | .dpLedClock seconds colon hours minutes _ => ⟨0x47#8, seconds.setWidth 12 <<< 6 ||| bitField colon <<< 5 ||| hours.setWidth 12, minutes.setWidth 12⟩
  | .oledCmd n _ => ⟨0x50#8, 0, n⟩
  | .oledData n _ => ⟨0x51#8, 0, n⟩
  | .oledWindow n _ => ⟨0x52#8, 0, n⟩
  | .oledClear _ => ⟨0x53#8, 0, 0⟩
  | .miscGetVersion _ => ⟨0x60#8, 0, 0⟩

/-- The encoder: the command word and the payload of a command (R112, R127). -/
def encode (i : Instr) : Command := { cw := wordOfFields (fieldsOfInstr i), txp := i.txp }

/-- How many payload bytes a word asks for (R111); 0 for an illegal word, whose payload is not examined (R407). -/
def payloadLengthOfWord (cw : BitVec 32) : Nat :=
  match decode { cw := cw, txp := [] } with
  | .ok i => i.payloadLength
  | .error _ => 0

/-- A decoder of a byte stream after a word: it takes as many payload bytes as the word fixes and leaves the rest (R111). -/
def decodeStream (cw : BitVec 32) (bytes : List Byte) : Except DecodeError (Instr × List Byte) :=
  match decode { cw := cw, txp := bytes.take (payloadLengthOfWord cw) } with
  | .ok i => .ok (i, bytes.drop (payloadLengthOfWord cw))
  | .error e => .error e

/-- The command whose bits are `w`, numbered as the opcode table numbers them: the command word, and every payload byte it
asks for zero. -/
def tableCommand (nbits w : Nat) : Command :=
  let cw := BitVec.ofNat 32 (w % 2 ^ nbits)
  { cw := cw, txp := List.replicate (payloadLengthOfWord cw) 0 }

/-- The instruction the decoder reads from the table's numbering of a command (host's interface). -/
def decodeTableWord (nbits w : Nat) : Option Instr :=
  match decode (tableCommand nbits w) with
  | .ok i => some i
  | .error _ => none

/-- One row of the opcode table: a word belongs to it when `CW & mask = pattern` (R121). -/
structure OpcodeRow where
  mnemonic : String
  pattern : BitVec 32
  mask : BitVec 32
  deriving DecidableEq, Repr

/-- The rows of UNIT 1 (opcode_table.json). -/
def i2cRows : List OpcodeRow :=
  [⟨"I2C.READ_CMD_DATA", 0x10000000#32, 0xFF000000#32⟩,
   ⟨"I2C.READ_DATA", 0x11000000#32, 0xFFFFF000#32⟩,
   ⟨"I2C.READ_BYTE", 0x12000000#32, 0xFFFFFFFF#32⟩,
   ⟨"I2C.WRITE_CMD_DATA", 0x13000000#32, 0xFF000000#32⟩,
   ⟨"I2C.WRITE_DATA", 0x14000000#32, 0xFFFFF000#32⟩,
   ⟨"I2C.WRITE_BYTE", 0x15000000#32, 0xFFFFFF00#32⟩,
   ⟨"I2C.START", 0x18000000#32, 0xFFFFFFFF#32⟩,
   ⟨"I2C.STOP", 0x19000000#32, 0xFFFFFFFF#32⟩,
   ⟨"I2C.TXBIT", 0x1A000000#32, 0xFFFFFFFE#32⟩,
   ⟨"I2C.RXBIT", 0x1B000000#32, 0xFFFFFFFF#32⟩,
   ⟨"I2C.ACKPOLL", 0x1C000000#32, 0xFFFFFFFF#32⟩,
   ⟨"I2C.TXBYTE", 0x1D000000#32, 0xFFFFFF00#32⟩,
   ⟨"I2C.RXBYTE", 0x1E000000#32, 0xFFFFFFFE#32⟩,
   ⟨"I2C.ADDR", 0x1F000000#32, 0xFFFFFFFC#32⟩]

/-- The rows of UNIT 2 (opcode_table.json). -/
def twRows : List OpcodeRow :=
  [⟨"TW.READ_CMD_DATA", 0x20000000#32, 0xFF000000#32⟩,
   ⟨"TW.READ_DATA", 0x21000000#32, 0xFFFFF000#32⟩,
   ⟨"TW.READ_BYTE", 0x22000000#32, 0xFFFFFFFF#32⟩,
   ⟨"TW.WRITE_CMD_DATA", 0x23000000#32, 0xFF000000#32⟩,
   ⟨"TW.WRITE_DATA", 0x24000000#32, 0xFFFFF000#32⟩,
   ⟨"TW.WRITE_BYTE", 0x25000000#32, 0xFFFFFF00#32⟩,
   ⟨"TW.BEGIN", 0x28000000#32, 0xFFFFFFFF#32⟩,
   ⟨"TW.END", 0x29000000#32, 0xFFFFFFFF#32⟩,
   ⟨"TW.TXBIT", 0x2A000000#32, 0xFFFFFFFE#32⟩,
   ⟨"TW.RXBIT", 0x2B000000#32, 0xFFFFFFFF#32⟩,
   ⟨"TW.TXBYTE", 0x2D000000#32, 0xFFFFFF00#32⟩,
   ⟨"TW.RXBYTE", 0x2E000000#32, 0xFFFFFFFF#32⟩]

/-- The rows of UNIT 3 (opcode_table.json). -/
def ctlRows : List OpcodeRow :=
  [⟨"CTL.INIT", 0x30000000#32, 0xFFFFFFFF#32⟩,
   ⟨"CTL.GET_BRIGHTNESS", 0x31000000#32, 0xFFFFFFFF#32⟩,
   ⟨"CTL.SET_BRIGHTNESS", 0x32000000#32, 0xFFFFFF00#32⟩,
   ⟨"CTL.GET_POWER", 0x33000000#32, 0xFFFFFFFF#32⟩,
   ⟨"CTL.SET_POWER", 0x34000000#32, 0xFFFFFFFE#32⟩,
   ⟨"CTL.GET_DESCRIPTOR", 0x35000000#32, 0xFFFFFFFF#32⟩,
   ⟨"CTL.SET_DESCRIPTOR", 0x36000000#32, 0xFFFFFFFF#32⟩,
   ⟨"CTL.SET_ICON", 0x37000000#32, 0xFFFF0FFE#32⟩,
   ⟨"CTL.READ_RAW", 0x38000000#32, 0xFFFFF000#32⟩,
   ⟨"CTL.WRITE_RAW", 0x39000000#32, 0xFFFFF000#32⟩,
   ⟨"CTL.WRITE_DISPLAY_FRAME", 0x3A000000#32, 0xFFFFF000#32⟩,
   ⟨"CTL.SET_ORDER", 0x3B000000#32, 0xFFFFFFFF#32⟩,
   ⟨"CTL.SET_INDICATOR_MASK", 0x3C000000#32, 0xFFFFFFFF#32⟩,
   ⟨"CTL.GET_MODE", 0x3D000000#32, 0xFFFFFFFF#32⟩,
   ⟨"CTL.SET_MODE", 0x3E000000#32, 0xFFFFFF00#32⟩,
   ⟨"CTL.RELOAD_DEFAULTS", 0x3F000000#32, 0xFFFFFFFF#32⟩]

/-- The rows of UNIT 4 (opcode_table.json). -/
def dpRows : List OpcodeRow :=
  [⟨"DP.TRANSPOSE8", 0x40000000#32, 0xFFFFFFFF#32⟩,
   ⟨"DP.SCATTER", 0x41000000#32, 0xFFFFFFFF#32⟩,
   ⟨"DP.XF_DIRECT", 0x42000000#32, 0xFFFFFFFF#32⟩,
   ⟨"DP.XF_TRANSPOSED", 0x43000000#32, 0xFFFFFFFF#32⟩,
   ⟨"DP.XF_NARROW5", 0x44000000#32, 0xFFFFFFFF#32⟩,
   ⟨"DP.XF_MUXEXT", 0x45000000#32, 0xFFFFFFFF#32⟩,
   ⟨"DP.CHAR_TO_MASK", 0x46000000#32, 0xFFFFFF00#32⟩,
   ⟨"DP.LED_CLOCK", 0x47000000#32, 0xFF000FC0#32⟩]

/-- The rows of UNIT 5 (opcode_table.json). -/
def oledRows : List OpcodeRow :=
  [⟨"OLED.CMD", 0x50000000#32, 0xFFFFF000#32⟩,
   ⟨"OLED.DATA", 0x51000000#32, 0xFFFFF000#32⟩,
   ⟨"OLED.WINDOW", 0x52000000#32, 0xFFFFF000#32⟩,
   ⟨"OLED.CLEAR", 0x53000000#32, 0xFFFFFFFF#32⟩]

/-- The rows of UNIT 6 (opcode_table.json). -/
def miscRows : List OpcodeRow :=
  [⟨"MISC.GET_VERSION", 0x60000000#32, 0xFFFFFFFF#32⟩]

/-- The opcode table (R121). -/
def opcodeRows : List OpcodeRow :=
  i2cRows ++ twRows ++ ctlRows ++ dpRows ++ oledRows ++ miscRows

/-- The mask and match test of R121. -/
def OpcodeRow.covers (r : OpcodeRow) (cw : BitVec 32) : Bool := decide (cw &&& r.mask = r.pattern)

end Sys2Proof
end

