-- ==== Sys2Proof/Config.lean ====
section
/-! DEFINITION. What an implementation fixes: the parameters of 00_scope.md R8, as PLAIN DATA, so that a state can hold them
and every statement holds for all of them (log entry 4), and the free values: opaque constants, of which nothing can be
proved (log entries 3 and 6). The values of a parameter set that the reset state uses are in Machine/Params.lean. -/

namespace Sys2Proof

/-- The active backend (44_backends.md R340). -/
inductive Backend where
  | led
  | lcd
  | oledA
  | oledB
  | dummy
  deriving DecidableEq, Repr, Inhabited

/-- The two revisions of the graphic-OLED variant (R340). -/
inductive Rev where
  | a
  | b
  deriving DecidableEq, Repr, Inhabited

/-- The LED layout transforms (43_layout.md R303 to R306; 10_state.md R53). -/
inductive Layout where
  | direct
  | transposed
  | narrow5
  | muxext
  deriving DecidableEq, Repr, Inhabited

/-- The bus a backend is on (44_backends.md R343). -/
inductive Bus where
  | tw
  | i2c
  | none
  deriving DecidableEq, Repr, Inhabited

/-- The descriptor flags (10_state.md R47). -/
inductive Flag where
  | transposed
  | rotated
  | inverted
  | secsShown
  | altComConfig
  | lowFreq
  | extSupply
  deriving DecidableEq, Repr, Inhabited

/-- I2CCFG.AMODE (10_state.md R43); the code 3 cannot arise and is left out of the type (93, item 9). -/
inductive AddrMode where
  | none
  | a7
  | a10
  deriving DecidableEq, Repr, Inhabited

/-- I2CCFG, the I2C engine configuration (10_state.md R43). `lsbf`: true = LSB first; `aord`: true = address bytes follow LSBF. -/
structure I2cCfg where
  amode : AddrMode
  addr : BitVec 10
  lsbf : Bool
  aord : Bool
  td : BitVec 16
  tack : BitVec 16
  deriving DecidableEq, Repr, Inhabited

/-- A bus command of a backend (44_backends.md R345): one write with command bytes and data bytes, or a settling wait. -/
inductive Cmd where
  | w (cs ds : List Byte)
  | d (n : Nat)
  deriving DecidableEq, Repr, Inhabited

/-- The modes of a DisplayData record (D38: the source's six). -/
inductive DisplayMode where
  | clock
  | date
  | channel
  | playbackTime
  | title
  | temperature
  deriving DecidableEq, Repr, Inhabited

/-- A decoded DisplayData record (R8 `DD_DECODE`, D38): the fields R8 names, the clock fields in the ranges of 43_layout.md
R309, and the mode-specific rest as bytes (log entry 8). -/
structure DisplayData where
  mode : DisplayMode
  hours : Fin 24
  minutes : Fin 60
  seconds : Fin 60
  colon : Bool
  payload : List Byte
  deriving DecidableEq, Repr, Inhabited

/-- One entry of `LAYOUT_OF` (R8, R342): descriptors with `desc & mask = pattern` take `layout`. -/
structure LayoutRule where
  mask : BitVec 32
  pattern : BitVec 32
  layout : Layout
  deriving DecidableEq, Repr, Inhabited

/-- `FLAG_BIT` (R8, 10_state.md R47): the bit of FLAGS each flag stands at. -/
structure FlagBits where
  transposed : Fin 8
  rotated : Fin 8
  inverted : Fin 8
  secsShown : Fin 8
  altComConfig : Fin 8
  lowFreq : Fin 8
  extSupply : Fin 8
  deriving DecidableEq, Repr, Inhabited

/-- `LCD_MAP` (44_backends.md R351): the expander bit of each LCD signal. -/
structure LcdMap where
  rs : Fin 8
  rw : Fin 8
  en : Fin 8
  bl : Fin 8
  d4 : Fin 8
  d5 : Fin 8
  d6 : Fin 8
  d7 : Fin 8
  deriving DecidableEq, Repr, Inhabited

/-- The parameters of R8, as plain data. A parameter that is a function is a table; what it is where the table has no entry is
said at each field, and coded in Machine/Operands.lean. -/
structure Params where
  /-- `I2C_AMODE`, `I2C_ADDR`, `I2C_LSBF`, `ADDR_ORDER`, `TD_I2C`, `TACK`. -/
  i2c : I2cCfg
  /-- `TD_3W`. -/
  td3w : BitVec 16
  /-- `LEVELS` of the backends other than LED; no entry: 8 (R349, R356, R366). -/
  levels : List (Backend × Nat)
  /-- `NUM_TYPES`. -/
  numTypes : Nat
  /-- `SELECT`; no entry: DUMMY (R341). -/
  select : List (Byte × Backend)
  /-- `LAYOUT_OF`; the first entry that matches; none: the default rule of R342. -/
  layoutOf : List LayoutRule
  /-- `BUS_OF`; no entry: the bus of R343 (D55). -/
  bus : List (Backend × Bus)
  /-- `DOT_TABLE`, by TYPE and icon id; no entry: 0, no such icon (10_state.md R54). -/
  dotTable : List ((Byte × BitVec 4) × Word)
  /-- `GLYPH`; no entry: the code is not in the table (R308). -/
  glyph : List (Byte × Byte)
  /-- `BRIGHT_CMD`; no entry: the command of R349, R356, R366, R367. -/
  brightCmd : List ((Backend × Byte × Bool) × List Cmd)
  /-- `TW_MODE_CMD` (R346). -/
  twModeCmd : Byte
  /-- `TW_DATA_CMD` (R347). -/
  twDataCmd : Byte
  /-- `TW_ADDR_CMD` (R347). -/
  twAddrCmd : Byte
  /-- `LED_I2C_INIT` (R346), OPEN; none: the free value `Config.ledI2cInit`. -/
  ledI2cInit : Option (List Cmd)
  /-- `LED_I2C_EMIT` (R348), OPEN; no entry: the free value `Config.ledI2cEmit`. -/
  ledI2cEmit : List (Frame × List Cmd)
  /-- `READ_CMD`; no entry: the default of R350. -/
  readCmd : List (Backend × List Byte)
  /-- `NARROW_COLON_POS` less one: the logical digit 1..5 (R305). -/
  narrowColon : Fin 5
  /-- `LCD_MAP` (R351). -/
  lcdMap : LcdMap
  /-- `LCD_COL[1..4]` (R355). -/
  lcdCol1 : Byte
  lcdCol2 : Byte
  lcdCol3 : Byte
  lcdCol4 : Byte
  /-- `LCD_COLON_COL` (R355). -/
  lcdColonCol : Byte
  /-- `LCD_T_PWR`, `LCD_T_INIT1`, `LCD_T_INIT2`, `LCD_T_CMD`, `LCD_T_CLR` in microseconds (R353, R354). -/
  lcdTPwr : Nat
  lcdTInit1 : Nat
  lcdTInit2 : Nat
  lcdTCmd : Nat
  lcdTClr : Nat
  /-- `OLED_COLS`, `OLED_BANKS`, `OLED_RAM_COLS`, `OLED_COL_OFF` (R359, R361). -/
  oledCols : Nat
  oledBanks : Nat
  oledRamCols : Nat
  oledColOff : Nat
  /-- `OLED_INIT`; no entry: the sequence of R358. -/
  oledInit : List ((Rev × BitVec 32) × List Byte)
  /-- `OLED_CONTRAST`, OPEN (R366); no entry: the free value `Config.oledContrast`. -/
  oledContrast : List (Byte × Byte)
  /-- `DD_SIZE` (R251). -/
  ddSize : Nat
  /-- `DD_DECODE`, OPEN (R251); no entry: the free value `Config.ddDecode`. -/
  ddDecode : List (List Byte × DisplayData)
  /-- `LED_COMPOSE`, OPEN (R251); no entry: the free value `Config.ledCompose`. -/
  ledCompose : List (DisplayData × Frame)
  /-- `DEFAULT_DESC`. -/
  defaultDesc : BitVec 32
  /-- `DEFAULT_ORDER`. -/
  defaultOrder : Seven (Fin 7)
  /-- `BRIGHT_RESET`, `POWER_RESET`. R8 has BRIGHT_RESET as a natural number and does not say what a value above 255 loads into the 8 bits
  of BRIGHT (10_state.md R49): it has BRIGHT's width here (DESIGN CHOICE, log entry 4). -/
  brightReset : Byte
  powerReset : Bool
  /-- `VERSION` (R257). -/
  version : List Byte
  /-- `FLAG_BIT` (R47). -/
  flagBit : FlagBits
  deriving DecidableEq, Repr

/-- The bus environment's answer to the `k`-th `Read` of a run, where the state holds no answer for it: any value (00_scope.md
R7; log entry 3). -/
opaque Config.freeRead : Nat → Bool

/-- The contrast byte of a brightness level that no table gives (`OLED_CONTRAST` is OPEN, D30; log entry 6). -/
opaque Config.oledContrast : Byte → Byte

/-- The LED bring-up over I2C that no parameter gives (`LED_I2C_INIT` is OPEN, D29; log entry 6). -/
opaque Config.ledI2cInit : List Cmd

/-- The LED frame emission over I2C that no table gives (`LED_I2C_EMIT` is OPEN, D29; log entry 6). -/
opaque Config.ledI2cEmit : Frame → List Cmd

/-- The decoding of a DisplayData record that no table gives (`DD_DECODE` is OPEN, D38; log entry 6). -/
opaque Config.ddDecode : List Byte → DisplayData

/-- The LED frame of a non-clock record that no table gives (`LED_COMPOSE` is OPEN, D38; log entry 6). -/
opaque Config.ledCompose : DisplayData → Frame

end Sys2Proof
end

