-- ==== Sys2Proof/Machine/Params.lean ====
section
/-! DEFINITION. The parameter values of the reset state: the defaults that 00_scope.md R8 and the section files give, and,
where the spec gives none, the values its test vectors assume (95_test_vectors.md section 0.2) or a choice of the model's
(log entries 5 and 7). A statement about every state holds for every parameter set, so it does not rest on these.
With them, what a descriptor selects: the backend, the flags and the layout (44_backends.md R341, R342; 10_state.md R47). -/

namespace Sys2Proof.Machine

/-- The default SELECT (44_backends.md R341); every other code is DUMMY. -/
def defaultSelect : List (Byte × Backend) := [(0, .led), (1, .lcd), (2, .oledA), (3, .oledB)]

/-- The default glyph table: the ASCII digits (43_layout.md R308). -/
def defaultGlyph : List (Byte × Byte) :=
  [(0x30, 0x3F), (0x31, 0x06), (0x32, 0x5B), (0x33, 0x4F), (0x34, 0x66),
   (0x35, 0x6D), (0x36, 0x7D), (0x37, 0x07), (0x38, 0x7F), (0x39, 0x6F)]

/-- The default FLAG_BIT: the listed order (10_state.md R47). -/
def defaultFlagBits : FlagBits :=
  { transposed := 0, rotated := 1, inverted := 2, secsShown := 3, altComConfig := 4, lowFreq := 5, extSupply := 6 }

/-- The default LCD_MAP: RS 0, RW 1, EN 2, BL 3, D4..D7 on 4..7 (44_backends.md R351). -/
def defaultLcdMap : LcdMap := { rs := 0, rw := 1, en := 2, bl := 3, d4 := 4, d5 := 5, d6 := 6, d7 := 7 }

/-- The identity character-order map (R8 `DEFAULT_ORDER`, 10_state.md R48). -/
def identityOrder : Seven (Fin 7) := ⟨0, 1, 2, 3, 4, 5, 6⟩

/-- DESIGN CHOICE (log entry 5): the colon mask of the test vectors, 0x0002 for each of the four types. -/
def defaultDotTable : List ((Byte × BitVec 4) × Word) :=
  [((0, 4), 0x0002), ((1, 4), 0x0002), ((2, 4), 0x0002), ((3, 4), 0x0002)]

/-- DESIGN CHOICE where the spec gives no value (log entry 5): I2C_ADDR, TD_I2C and TACK. -/
def defaultI2cCfg : I2cCfg :=
  { amode := .a7, addr := 0x3C, lsbf := false, aord := false, td := 1, tack := 3 }

/-- The parameter set of the reset state (log entries 5 and 7). -/
def defaultParams : Params where
  i2c := defaultI2cCfg
  td3w := 1
  levels := []
  numTypes := 4
  select := defaultSelect
  layoutOf := []
  bus := []
  dotTable := defaultDotTable
  glyph := defaultGlyph
  brightCmd := []
  twModeCmd := 0x03
  twDataCmd := 0x40
  twAddrCmd := 0xC0
  ledI2cInit := none
  ledI2cEmit := []
  readCmd := []
  narrowColon := 1
  lcdMap := defaultLcdMap
  lcdCol1 := 0
  lcdCol2 := 1
  lcdCol3 := 3
  lcdCol4 := 4
  lcdColonCol := 2
  lcdTPwr := 50000
  lcdTInit1 := 4500
  lcdTInit2 := 150
  lcdTCmd := 50
  lcdTClr := 2000
  oledCols := 128
  oledBanks := 8
  oledRamCols := 132
  oledColOff := 2
  oledInit := []
  oledContrast := []
  ddSize := 5
  ddDecode := []
  ledCompose := []
  defaultDesc := 0
  defaultOrder := identityOrder
  brightReset := 7
  powerReset := true
  version := [0x56, 0x31]
  flagBit := defaultFlagBits

/-- ACTIVE of a descriptor: `SELECT(DESC.KIND)`, DUMMY for a code SELECT does not map (44_backends.md R341). -/
def backendOf (p : Params) (desc : BitVec 32) : Backend :=
  (p.select.lookup (desc.extractLsb' 24 8)).getD .dummy

/-- The bit of DESC a flag stands at, counted within FLAGS (10_state.md R47). -/
def flagBit (p : Params) (f : Flag) : Fin 8 :=
  match f with
  | .transposed => p.flagBit.transposed
  | .rotated => p.flagBit.rotated
  | .inverted => p.flagBit.inverted
  | .secsShown => p.flagBit.secsShown
  | .altComConfig => p.flagBit.altComConfig
  | .lowFreq => p.flagBit.lowFreq
  | .extSupply => p.flagBit.extSupply

/-- `flag(name) = DESC[16 + FLAG_BIT(name)]` (10_state.md R47). -/
def flagOf (p : Params) (desc : BitVec 32) (f : Flag) : Bool := desc.getLsbD (16 + (flagBit p f).val)

/-- LAYOUT of a descriptor: the first entry of LAYOUT_OF that matches, else the default rule (44_backends.md R342). -/
def layoutOf (p : Params) (desc : BitVec 32) : Layout :=
  match p.layoutOf.find? (fun r => decide (desc &&& r.mask = r.pattern)) with
  | some r => r.layout
  | none => if flagOf p desc .transposed then .transposed else .direct

end Sys2Proof.Machine
end

