-- ==== Sys2Proof/Machine/State.lean ====
section
/-! DEFINITION. The state of OBLE: the record S of 10_state.md R30, group by group, the host's and the bus environment's
inputs, the pin-event trace, and the parameters (log entries 1 to 4); the state after reset (R60, R441); the reasons a step
can stop. -/

namespace Sys2Proof.Machine

/-- The five logical pins (20_memory.md R80, R81). -/
inductive Pin where
  | sda
  | scl
  | stb
  | clk
  | dio
  deriving DecidableEq, Repr, Inhabited

/-- A pin event (00_scope.md R12). -/
inductive Event where
  /-- `Set(p, v)`: drive the pin to a level. -/
  | set (p : Pin) (v : Bool)
  /-- `SetInput(p)`: release the pin. -/
  | setInput (p : Pin)
  /-- `Read(p)`: sample the pin; `v` is the oracle's answer. -/
  | read (p : Pin) (v : Bool)
  /-- `Delay(n)`: wait at least n microseconds. -/
  | delay (n : Nat)
  deriving DecidableEq, Repr, Inhabited

/-- The result codes (60_exceptions.md R400); 6 to 14 are never returned. -/
inductive RC where
  | ok
  | ackf
  | reject
  | length
  | seq
  | unsupported
  | illegal
  deriving DecidableEq, Repr, Inhabited

/-- The datapath registers SR, BITCNT, BYTECNT and TMOCNT (10_state.md R31 to R35). -/
structure Datapath where
  sr : Byte
  bitcnt : BitVec 4
  bytecnt : BitVec 12
  tmocnt : BitVec 16
  deriving DecidableEq, Repr, Inhabited

/-- SEQ (10_state.md R36). -/
inductive Phase where
  | ready
  | exec
  deriving DecidableEq, Repr, Inhabited

/-- I2C_BUS (10_state.md R37). -/
inductive I2cBus where
  | idle
  | held
  deriving DecidableEq, Repr, Inhabited

/-- How OBLE drives an I2C line: DRV_SDA, DRV_SCL (10_state.md R38). -/
inductive I2cDrive where
  | low
  | rel
  deriving DecidableEq, Repr, Inhabited

/-- The I2C engine state (10_state.md R37, R38). -/
structure I2cState where
  bus : I2cBus
  sda : I2cDrive
  scl : I2cDrive
  deriving DecidableEq, Repr, Inhabited

/-- TW_FRAME (10_state.md R39). -/
inductive TwFrame where
  | idle
  | opened
  deriving DecidableEq, Repr, Inhabited

/-- TW_DIR (10_state.md R39). -/
inductive TwDir where
  | output
  | input
  deriving DecidableEq, Repr, Inhabited

/-- How OBLE drives a TW line: DRV_STB, DRV_CLK, DRV_DIO (10_state.md R40). -/
inductive TwDrive where
  | driven (v : Bool)
  | input
  deriving DecidableEq, Repr, Inhabited

/-- The TW engine state (10_state.md R39, R40). -/
structure TwState where
  frame : TwFrame
  dir : TwDir
  bitcnt : BitVec 3
  stb : TwDrive
  clk : TwDrive
  dio : TwDrive
  deriving DecidableEq, Repr, Inhabited

/-- The fields of STATUS (10_state.md R41). -/
structure Status where
  rc : RC
  tmo : Bool
  acked : BitVec 12
  deriving DecidableEq, Repr, Inhabited

/-- I2CCFG and TWCFG (10_state.md R43, R44). -/
structure EngineCfg where
  i2c : I2cCfg
  td3 : BitVec 16
  deriving DecidableEq, Repr, Inhabited

/-- The controller registers (10_state.md R45 to R53). -/
structure Ctlr where
  desc : BitVec 32
  order : Seven (Fin 7)
  bright : Byte
  power : Bool
  icon : Word
  mode : Byte
  active : Backend
  layout : Layout
  deriving DecidableEq, Repr, Inhabited

/-- What the host may do next at the command port: issue a command, or take a reset (00_scope.md R3; 70_reset_and_hazards.md
R440). -/
inductive HostInput where
  | command (c : Command)
  | reset
  deriving DecidableEq, Repr

/-- The model's own fields: the host's inputs to come, the bus environment's answers to come and how many were taken, and the
pin-event trace, newest event first (log entries 1 to 3). -/
structure Env where
  inbox : List HostInput
  answers : List Bool
  reads : Nat
  traceRev : List Event
  deriving DecidableEq, Repr

/-- The state S = (DP, SEQ, I2CS, TWS, STATUS, CFG, CTLR, WBUF, RXQ, REFUSED) of 10_state.md R30, with the model's own
groups `env` and `par`. -/
structure State where
  dp : Datapath
  seq : Phase
  i2cs : I2cState
  tws : TwState
  status : Status
  cfg : EngineCfg
  ctlr : Ctlr
  wbuf : Frame
  rxq : List Byte
  refused : Bool
  env : Env
  par : Params
  deriving DecidableEq, Repr

/-- Why a step stops with a fault. No command of the spec faults: a failure is a result code (60_exceptions.md R410). -/
inductive Fault where
  /-- Raised by `step` when an input stands at the port while SEQ = EXEC: a command is accepted only when SEQ = READY
  (20_memory.md R100), and no run reaches such a state (70_reset_and_hazards.md R447; log entry 10). Safe. -/
  | portBusy
  deriving DecidableEq, Repr

/-- Why a step is refused: the model gives no meaning (00_scope.md R13, 60_exceptions.md R413). -/
inductive Refusal where
  /-- Raised by an arm of `exec` whose instruction has no meaning yet. Safe. -/
  | notModelled (mnemonic : String)
  /-- Raised by CTL.WRITE_DISPLAY_FRAME on LCD, OLED_A and OLED_B: the frame goes to the rendering engine, which the spec
  puts out of scope and makes the model refuse (42_controller.md R251, 60_exceptions.md R413; log entry 9). Safe. -/
  | renderingEngine
  /-- Raised by `step` from a state whose REFUSED mark is set (10_state.md R57; log entry 9). Safe. -/
  | runRefused
  deriving DecidableEq, Repr

/-- What a meaning answers. -/
abbrev Result := Host.Outcome State Fault Refusal

/-- The pin-event trace in the order of the events (00_scope.md R12, 20_memory.md R99). -/
def State.trace (s : State) : List Event := s.env.traceRev.reverse

/-- The reset state of OBLE with parameters `p` (10_state.md R60, 70_reset_and_hazards.md R441), with no input, no answer and
no event. -/
def State.resetWith (p : Params) : State where
  dp := { sr := 0, bitcnt := 0, bytecnt := 0, tmocnt := 0 }
  seq := .ready
  i2cs := { bus := .idle, sda := .rel, scl := .rel }
  tws := { frame := .idle, dir := .input, bitcnt := 0, stb := .input, clk := .input, dio := .input }
  status := { rc := .ok, tmo := false, acked := 0 }
  cfg := { i2c := p.i2c, td3 := p.td3w }
  ctlr :=
    { desc := p.defaultDesc, order := p.defaultOrder, bright := p.brightReset, power := p.powerReset, icon := 0, mode := 0,
      active := backendOf p p.defaultDesc, layout := layoutOf p p.defaultDesc }
  wbuf := Seven.replicate 0
  rxq := []
  refused := false
  env := { inbox := [], answers := [], reads := 0, traceRev := [] }
  par := p

/-- The machine right after reset, with the parameter values of log entries 5 and 7. -/
def State.reset : State := State.resetWith defaultParams

end Sys2Proof.Machine
end

