-- ==== Sys2Proof/Machine/Flags.lean ====
section
/-! DEFINITION. STATUS (10_state.md R41): its codes, its 17-bit word, and how TMO and ACKED change. OBLE has no condition
codes, carry or predicates (R42). -/

namespace Sys2Proof.Machine

/-- The number of a result code (60_exceptions.md R400). -/
def rcCode (rc : RC) : BitVec 4 :=
  match rc with
  | .ok => 0
  | .ackf => 1
  | .reject => 2
  | .length => 3
  | .seq => 4
  | .unsupported => 5
  | .illegal => 15

/-- STATUS as its 17-bit word: ACKED in 16:5, TMO in 4, RC in 3:0 (10_state.md R41). -/
def statusWord (st : Status) : BitVec 17 :=
  st.acked.setWidth 17 <<< 5 ||| (if st.tmo then 1 <<< 4 else 0) ||| (rcCode st.rc).setWidth 17

/-- TMO and ACKED are cleared at the start of every command (10_state.md R41, 60_exceptions.md R405). -/
def clearStatus (s : State) : State := { s with status := { s.status with tmo := false, acked := 0 } }

/-- `TMO <- 1` (41_i2c.md R188). It stays set to the end of the command, as 44_backends.md R345 says, also where a later poll of
the same command fails without a timeout, for which 10_state.md R41 can be read as 0 (DEDUCED, log entry 11). -/
def setTmo (s : State) : State := { s with status := { s.status with tmo := true } }

/-- `ACKED <- min(ACKED + 1, 4095)` (41_i2c.md R189, R208). -/
def countAck (s : State) : State :=
  { s with status :=
      { s.status with acked := if s.status.acked = 4095 then s.status.acked else s.status.acked + 1 } }

/-- `ACKED <- 0` before an I2C transaction of a backend (44_backends.md R345). -/
def clearAcked (s : State) : State := { s with status := { s.status with acked := 0 } }

/-- The code of a command whose bus steps succeeded or not (41_i2c.md R193, 42_controller.md R260). -/
def ackCode (ok : Bool) : RC := if ok then .ok else .ackf

end Sys2Proof.Machine
end

