-- ==== Sys2Proof/Machine/Ops.lean ====
section
/-! DEFINITION. The operations every command is made of: the pin events with the drive registers they update (00_scope.md
R12; 10_state.md R38, R40), the oracle's answer to a Read (R7), the access to WBUF and RXQ, the start of a command, its
finish with a result code (OBLE's whole exception mechanism: R13, 60_exceptions.md R400, R405, R410), the check order (R408),
and the host's reset (70_reset_and_hazards.md R440). -/

namespace Sys2Proof.Machine

/-- Append one event to the trace (00_scope.md R12). -/
def event (e : Event) (s : State) : State := { s with env := { s.env with traceRev := e :: s.env.traceRev } }

/-- `Delay(n)` (R12); an event even for n = 0. -/
def delay (n : Nat) (s : State) : State := event (.delay n) s

/-- `lo(SDA)`: `Set(SDA, 0); DRV_SDA <- LOW` (41_i2c.md R180). -/
def loSda (s : State) : State :=
  event (.set .sda false) { s with i2cs := { s.i2cs with sda := .low } }

/-- `lo(SCL)` (41_i2c.md R180). -/
def loScl (s : State) : State :=
  event (.set .scl false) { s with i2cs := { s.i2cs with scl := .low } }

/-- `rel(SDA)`: `SetInput(SDA); DRV_SDA <- REL` (41_i2c.md R180). -/
def relSda (s : State) : State :=
  event (.setInput .sda) { s with i2cs := { s.i2cs with sda := .rel } }

/-- `rel(SCL)` (41_i2c.md R180). -/
def relScl (s : State) : State :=
  event (.setInput .scl) { s with i2cs := { s.i2cs with scl := .rel } }

/-- `Set(STB, v); DRV_STB <- v` (40_threewire.md R141). -/
def setStb (v : Bool) (s : State) : State :=
  event (.set .stb v) { s with tws := { s.tws with stb := .driven v } }

/-- `Set(CLK, v); DRV_CLK <- v` (40_threewire.md R141). -/
def setClk (v : Bool) (s : State) : State :=
  event (.set .clk v) { s with tws := { s.tws with clk := .driven v } }

/-- `Set(DIO, v); DRV_DIO <- v` (40_threewire.md R141). -/
def setDio (v : Bool) (s : State) : State :=
  event (.set .dio v) { s with tws := { s.tws with dio := .driven v } }

/-- `SetInput(DIO); DRV_DIO <- IN` (40_threewire.md R141). -/
def relDio (s : State) : State :=
  event (.setInput .dio) { s with tws := { s.tws with dio := .input } }

/-- The answer the bus environment gives to the next Read: the next one the state holds, and a free value past the last
(00_scope.md R7; log entry 3). -/
def nextAnswer (s : State) : Bool :=
  match s.env.answers with
  | [] => Config.freeRead s.env.reads
  | v :: _ => v

/-- `Read(p)`: sample a pin. The answer is an oracle draw, recorded in the trace (00_scope.md R7, R12). -/
def readPin (p : Pin) (s : State) : Bool × State :=
  (nextAnswer s,
    { s with env :=
        { s.env with
          answers := s.env.answers.tail
          reads := s.env.reads + 1
          traceRev := .read p (nextAnswer s) :: s.env.traceRev } })

/-- The level a target sees on a line that OBLE drives; none on a released line, whose level the model does not fix
(20_memory.md R82). -/
def wireLevel (s : State) (p : Pin) : Option Bool :=
  match p with
  | .sda => if s.i2cs.sda = .low then some false else none
  | .scl => if s.i2cs.scl = .low then some false else none
  | .stb => match s.tws.stb with | .driven v => some v | .input => none
  | .clk => match s.tws.clk with | .driven v => some v | .input => none
  | .dio => match s.tws.dio with | .driven v => some v | .input => none

/-- `MemRead(WBUF, k, 2)` (00_scope.md R11). -/
def wbufRead (s : State) (k : Fin 7) : Word := s.wbuf.get k

/-- `MemWrite(WBUF, k, 2, v)` (00_scope.md R11). -/
def wbufWrite (k : Fin 7) (v : Word) (s : State) : State := { s with wbuf := s.wbuf.set k v }

/-- `emit(b)`: append a byte to RXQ (00_scope.md R13). -/
def emit (b : Byte) (s : State) : State := { s with rxq := s.rxq ++ [b] }

/-- `emit` of each byte of a list, in order. -/
def emitAll (bs : List Byte) (s : State) : State := { s with rxq := s.rxq ++ bs }

/-- A Boolean as a result byte 0x00 or 0x01. -/
def boolByte (b : Bool) : Byte := if b then 1 else 0

/-- The start of a command: SEQ to EXEC (10_state.md R36), RXQ emptied (R56), TMO and ACKED cleared (R41). -/
def begin (s : State) : State := { clearStatus s with seq := .exec, rxq := [] }

/-- The state a command leaves when it ends with a result code: STATUS.RC written, SEQ back to READY. -/
def finished (rc : RC) (s : State) : State := { s with status := { s.status with rc := rc }, seq := .ready }

/-- `finish RC`: the command ends with its result code, and SEQ returns to READY (00_scope.md R13, 10_state.md R36,
60_exceptions.md R405). The result (RC, RXQ, STATUS) stands in the state. -/
def finish (rc : RC) (s : State) : Result := .next (finished rc s)

/-- `raise Code`: a synonym of `finish` for a nonzero code; it never transfers control (00_scope.md R13, 60_exceptions.md
R410). -/
def raise (rc : RC) (s : State) : Result := finish rc s

/-- Finish with OK when the bus steps succeeded and with ACKF when not (42_controller.md R260). -/
def finishAck (r : Bool × State) : Result := finish (ackCode r.1) r.2

/-- A command that is not a defined encoding: RC = ILLEGAL and nothing else (30_encoding.md R122, 60_exceptions.md R407). -/
def illegal (s : State) : Result := raise .illegal (begin s)

/-- The check order of 60_exceptions.md R408: SEQ from the unit's sequencing check, LENGTH for |TXP|, then the command's own
checks and effect. -/
def command (seqOk : Bool) (need : Nat) (txp : List Byte) (body : State → Result) (s : State) : Result :=
  if seqOk then
    if txp.length = need then body (begin s) else raise .length (begin s)
  else raise .seq (begin s)

/-- I2C_BUS = IDLE (41_i2c.md R211). -/
def i2cIdle (s : State) : Bool := decide (s.i2cs.bus = .idle)

/-- TW_FRAME = IDLE (40_threewire.md R162). -/
def twIdle (s : State) : Bool := decide (s.tws.frame = .idle)

/-- TW_BITCNT = 0: at a byte boundary (40_threewire.md R148, R159). -/
def twBoundary (s : State) : Bool := decide (s.tws.bitcnt = 0)

/-- No switch of the data line to `x` in mid-byte (40_threewire.md R148, 60_exceptions.md R404). -/
def twTurns (x : TwDir) (s : State) : Bool := decide (s.tws.dir = x ∨ s.tws.bitcnt = 0)

/-- A TW capability operation: `check R162`, then LENGTH. -/
def twCapability (need : Nat) (txp : List Byte) (body : State → Result) (s : State) : Result :=
  command (twIdle s) need txp body s

/-- A TW primitive that needs an open frame (60_exceptions.md R404). -/
def twPrimitive (txp : List Byte) (body : State → Result) (s : State) : Result :=
  command (!twIdle s) 0 txp body s

/-- A TW bit primitive in the direction `x`: an open frame, and no switch in mid-byte, which R404 counts with the sequencing checks and
R408 has come before LENGTH (40_threewire.md R157, R158; 60_exceptions.md R404, R408). -/
def twBitPrimitive (x : TwDir) (txp : List Byte) (body : State → Result) (s : State) : Result :=
  command (!twIdle s && twTurns x s) 0 txp body s

/-- A TW byte primitive: it needs an open frame at a byte boundary (40_threewire.md R159, R160). -/
def twBytePrimitive (txp : List Byte) (body : State → Result) (s : State) : Result :=
  command (!twIdle s && twBoundary s) 0 txp body s

/-- An I2C capability operation: `check R211` (the bus idle), then LENGTH. -/
def i2cCapability (need : Nat) (txp : List Byte) (body : State → Result) (s : State) : Result :=
  command (i2cIdle s) need txp body s

/-- An I2C primitive other than START: it needs the bus held (41_i2c.md R211). -/
def i2cPrimitive (txp : List Byte) (body : State → Result) (s : State) : Result :=
  command (!i2cIdle s) 0 txp body s

/-- A UNIT 3, 5 or 6 command: `check R261`, both engines idle (42_controller.md R261). -/
def controller (need : Nat) (txp : List Byte) (body : State → Result) (s : State) : Result :=
  command (i2cIdle s && twIdle s) need txp body s

/-- A DP command: no bus state is asked for (43_layout.md section 5, D56). -/
def datapath (need : Nat) (txp : List Byte) (body : State → Result) (s : State) : Result :=
  command true need txp body s

/-- The host's reset: every register to its reset value, the parameters kept, no event, and the environment's answers and the
trace so far untouched (70_reset_and_hazards.md R440, R441, R442; log entry 17). -/
def hostReset (s : State) : State := { State.resetWith s.par with env := s.env }

end Sys2Proof.Machine
end

