-- ==== Sys2Proof/Machine/Operands.lean ====
section
/-! DEFINITION. How commands read their operands and the parameters: payload bytes and words (00_scope.md R15, R91), DESC
fields (10_state.md R46), the parameter tables with the spec's defaults (00_scope.md R8), and the values of characters and
icons (R54, 43_layout.md R308). -/

namespace Sys2Proof.Machine

/-- `TXP[i]` (00_scope.md R15). -/
def txpByte (txp : List Byte) (i : Nat) : Byte := txp.getD i 0

/-- `word(i) = TXP[2i+1], TXP[2i]`, low byte first (00_scope.md R15). -/
def txpWord (txp : List Byte) (i : Nat) : Word :=
  (txpByte txp (2 * i + 1)).setWidth 16 <<< 8 ||| (txpByte txp (2 * i)).setWidth 16

/-- The low byte of a word, `w[7:0]`. -/
def lowByte (w : Word) : Byte := w.extractLsb' 0 8

/-- The high byte of a word, `w[15:8]`. -/
def highByte (w : Word) : Byte := w.extractLsb' 8 8

/-- A frame as 14 bytes, word k low byte first at bytes 2k and 2k+1 (20_memory.md R91, R92). -/
def frameBytes (f : Frame) : List Byte := f.toList.flatMap (fun w => [lowByte w, highByte w])

/-- The frame of seven payload words (43_layout.md section 5). -/
def txpFrame (txp : List Byte) : Frame := Seven.ofFn (fun k => txpWord txp k.val)

/-- DESC byte 0, TYPE (10_state.md R46). -/
def descType (desc : BitVec 32) : Byte := desc.extractLsb' 0 8

/-- DESC byte 1, ADDR (10_state.md R46). -/
def descAddr (desc : BitVec 32) : Byte := desc.extractLsb' 8 8

/-- DESC byte 2, FLAGS (10_state.md R46, R47). -/
def descFlags (desc : BitVec 32) : Byte := desc.extractLsb' 16 8

/-- DESC byte 3, KIND (10_state.md R46). -/
def descKind (desc : BitVec 32) : Byte := desc.extractLsb' 24 8

/-- DESC from its four bytes, byte 0 first (10_state.md R46, 42_controller.md R247). -/
def descOfBytes (txp : List Byte) : BitVec 32 :=
  (txpByte txp 3).setWidth 32 <<< 24 ||| (txpByte txp 2).setWidth 32 <<< 16 ||| (txpByte txp 1).setWidth 32 <<< 8 |||
    (txpByte txp 0).setWidth 32

/-- The bytes of DESC in the order of 10_state.md R46. -/
def descBytes (desc : BitVec 32) : List Byte := [descType desc, descAddr desc, descFlags desc, descKind desc]

/-- `flag(name)` of the applied descriptor (10_state.md R47). -/
def flag (s : State) (f : Flag) : Bool := flagOf s.par s.ctlr.desc f

/-- Icon id 4, the colon (10_state.md R54). -/
def iconColon : BitVec 4 := 4

/-- `DOT_TABLE(DESC.TYPE, id)`; 0 where the panel has no such icon (10_state.md R54). -/
def dotMask (s : State) (id : BitVec 4) : Word := (s.par.dotTable.lookup (descType s.ctlr.desc, id)).getD 0

/-- `char_to_mask(b)`: the glyph, and 0x00 for a code not in the table (43_layout.md R308). -/
def charToMask (p : Params) (b : Byte) : Byte := (p.glyph.lookup b).getD 0

/-- `LEVELS(backend)`: 8 for LED (44_backends.md R349), the parameter for the others, 8 by default (R356, R366). -/
def levels (p : Params) (b : Backend) : Nat :=
  match b with
  | .led => 8
  | b => (p.levels.lookup b).getD 8

/-- The bus each backend is on by default (44_backends.md R343, D55). -/
def defaultBus (b : Backend) : Bus :=
  match b with
  | .led => .tw
  | .lcd => .i2c
  | .oledA => .i2c
  | .oledB => .i2c
  | .dummy => .none

/-- `BUS_OF(backend)`: the parameter's entry, else the default (00_scope.md R8, 44_backends.md R343). -/
def busOf (p : Params) (b : Backend) : Bus := (p.bus.lookup b).getD (defaultBus b)

/-- `READ_CMD(backend)` (44_backends.md R350). -/
def readCmd (p : Params) (b : Backend) : List Byte :=
  (p.readCmd.lookup b).getD (match b with | .led => [0x42] | _ => [])

/-- `OLED_CONTRAST(level)`, OPEN (44_backends.md R366; log entry 6). -/
def oledContrast (p : Params) (l : Byte) : Byte := (p.oledContrast.lookup l).getD (Config.oledContrast l)

/-- `LED_I2C_INIT`, OPEN (44_backends.md R346; log entry 6). -/
def ledI2cInit (p : Params) : List Cmd := p.ledI2cInit.getD Config.ledI2cInit

/-- `LED_I2C_EMIT(WBUF)`, OPEN (44_backends.md R348; log entry 6). -/
def ledI2cEmit (p : Params) (f : Frame) : List Cmd := (p.ledI2cEmit.lookup f).getD (Config.ledI2cEmit f)

/-- `DD_DECODE(record)`, OPEN (42_controller.md R251; log entry 6). -/
def ddDecode (p : Params) (bytes : List Byte) : DisplayData := (p.ddDecode.lookup bytes).getD (Config.ddDecode bytes)

/-- `LED_COMPOSE(record)`, OPEN (42_controller.md R251; log entry 6). -/
def ledCompose (p : Params) (dd : DisplayData) : Frame := (p.ledCompose.lookup dd).getD (Config.ledCompose dd)

/-- The phase delay of the TW engine, `d3 = TWCFG.TD3` (40_threewire.md R141). -/
def d3 (s : State) : Nat := s.cfg.td3.toNat

/-- The phase delay of the I2C engine, `d = I2CCFG.TD` (41_i2c.md R180). -/
def dI2c (s : State) : Nat := s.cfg.i2c.td.toNat

/-- A byte of a parameter or of a computed number: its low eight bits (DEDUCED, log entry 14). -/
def byteOfNat (n : Nat) : Byte := BitVec.ofNat 8 n

end Sys2Proof.Machine
end

