-- ==== Sys2Proof/Machine/TwEngine.lean ====
section
/-! DEFINITION. The procedures of the synchronous 3-wire engine (40_threewire.md section 2) and the bodies of its capability
operations (section 3), which the LED backend runs too (44_backends.md R345). -/

namespace Sys2Proof.Machine

/-- `tw_begin()` (40_threewire.md R142). -/
def twBegin (s : State) : State :=
  let s := delay (d3 s) (setStb false s)
  { s with tws := { s.tws with frame := .opened, bitcnt := 0 } }

/-- `tw_end()` (40_threewire.md R143). -/
def twEnd (s : State) : State :=
  let s := relDio (setStb true s)
  let s := delay (d3 s) { s with tws := { s.tws with dir := .input } }
  { s with tws := { s.tws with frame := .idle, bitcnt := 0 } }

/-- `TW_BITCNT <- (TW_BITCNT + 1) mod 8`. -/
def twCountBit (s : State) : State := { s with tws := { s.tws with bitcnt := s.tws.bitcnt + 1 } }

/-- `tw_txbit(b)` (40_threewire.md R144). -/
def twTxBit (b : Bool) (s : State) : State :=
  let s := setDio b (setClk false s)
  let s := setClk true (delay (d3 s) s)
  twCountBit (delay (d3 s) s)

/-- `tw_rxbit()` (40_threewire.md R145). -/
def twRxBit (s : State) : Bool × State :=
  let s := setClk false s
  let r := readPin .dio (delay (d3 s) s)
  let s := setClk true r.2
  (r.1, twCountBit (delay (d3 s) s))

/-- Load SR and clear BITCNT, as every byte procedure does first (40_threewire.md R146, R147; 41_i2c.md R189, R191). -/
def loadSr (x : Byte) (s : State) : State := { s with dp := { s.dp with sr := x, bitcnt := 0 } }

/-- SR after a bit phase, and BITCNT counted up. -/
def shiftSr (x : Byte) (s : State) : State := { s with dp := { s.dp with sr := x, bitcnt := s.dp.bitcnt + 1 } }

/-- `BYTECNT <- BYTECNT + 1`, modulo 4096 (40_threewire.md R146, R147; 41_i2c.md R189, R191, R208: "BYTECNT wraps
modulo 4096"). -/
def countByte (s : State) : State := { s with dp := { s.dp with bytecnt := s.dp.bytecnt + 1 } }

/-- `BYTECNT <- 0`. -/
def clearByteCount (s : State) : State := { s with dp := { s.dp with bytecnt := 0 } }

/-- `n` transmitted bits of SR, lowest first (the loop of 40_threewire.md R146). -/
def twTxBits (n : Nat) (s : State) : State :=
  match n with
  | 0 => s
  | n + 1 =>
    let s := twTxBit (s.dp.sr.getLsbD 0) s
    twTxBits n (shiftSr (s.dp.sr >>> 1) s)

/-- `tw_txbyte(x)` (40_threewire.md R146). -/
def twTxByte (x : Byte) (s : State) : State := countByte (twTxBits 8 (loadSr x s))

/-- `(SR >> 1) | (v << 7)`: a sampled bit enters from the top (40_threewire.md R147, 41_i2c.md R191). -/
def shiftInTop (sr : Byte) (v : Bool) : Byte := (sr >>> 1) ||| (boolByte v <<< 7)

/-- `n` received bits (the loop of 40_threewire.md R147). -/
def twRxBits (n : Nat) (s : State) : State :=
  match n with
  | 0 => s
  | n + 1 =>
    let r := twRxBit s
    twRxBits n (shiftSr (shiftInTop r.2.dp.sr r.1) r.2)

/-- `tw_rxbyte()` (40_threewire.md R147). -/
def twRxByte (s : State) : Byte × State :=
  let s := countByte (twRxBits 8 (loadSr 0 s))
  (s.dp.sr, s)

/-- The direction switch of 40_threewire.md R148 where it does not abort. -/
def twSwitch (x : TwDir) (s : State) : State :=
  if s.tws.dir = x then s
  else
    match x with
    | .output => { s with tws := { s.tws with dir := .output } }
    | .input =>
      let s := relDio s
      let s := delay (d3 s) s
      { s with tws := { s.tws with dir := .input } }

/-- `tw_dir(x)`: it aborts when the direction would change in mid-byte (40_threewire.md R148). -/
def twDir (x : TwDir) (s : State) : Option State :=
  if twTurns x s then some (twSwitch x s) else none

/-- A bit or byte primitive that turns the data line first (40_threewire.md R148, R157 to R160). The primitive's sequencing check has
ruled the SEQ of a switch in mid-byte out before (60_exceptions.md R408). -/
def twTurned (x : TwDir) (body : State → Result) (s : State) : Result :=
  match twDir x s with
  | some s' => body s'
  | none => raise .seq s

/-- `tw_txbyte` of each byte in order. -/
def twTxAll (bs : List Byte) (s : State) : State :=
  match bs with
  | [] => s
  | b :: bs => twTxAll bs (twTxByte b s)

/-- `n` times `tw_rxbyte`, the bytes in order. -/
def twRxAll (n : Nat) (s : State) : List Byte × State :=
  match n with
  | 0 => ([], s)
  | n + 1 =>
    let r := twRxByte s
    let q := twRxAll n r.2
    (r.1 :: q.1, q.2)

/-- The frame of TW.WRITE_CMD_DATA on the bytes to send, from its first event to its last (40_threewire.md R152). At its turn
TW_BITCNT is 0, so `tw_dir(OUT)` does not abort. -/
def twWriteFrame (bs : List Byte) (s : State) : State := twEnd (twTxAll bs (twSwitch .output (twBegin s)))

/-- TW.WRITE_CMD_DATA after its checks: `BYTECNT <- 0`, then the frame (40_threewire.md R152). -/
def twWrite (bs : List Byte) (s : State) : State := twWriteFrame bs (clearByteCount s)

/-- The command bytes of a read: the line is turned to OUT only when there are some (40_threewire.md R149, 90_conflicts.md
C10). -/
def twCommandBytes (cs : List Byte) (s : State) : State :=
  if cs.isEmpty then s else twTxAll cs (twSwitch .output s)

/-- The frame of TW.READ_CMD_DATA, from its first event to its last (40_threewire.md R149); with no command bytes, that of
TW.READ_DATA (R150). Nothing happens for n = 0. -/
def twReadFrame (cs : List Byte) (n : Nat) (s : State) : List Byte × State :=
  if n = 0 then ([], s)
  else
    let r := twRxAll n (twSwitch .input (twCommandBytes cs (twBegin s)))
    (r.1, twEnd r.2)

/-- TW.READ_CMD_DATA after its checks: `BYTECNT <- 0` where n is not 0, then the frame (40_threewire.md R149, R150). -/
def twRead (cs : List Byte) (n : Nat) (s : State) : List Byte × State :=
  twReadFrame cs n (if n = 0 then s else clearByteCount s)

end Sys2Proof.Machine
end

