-- ==== Sys2Proof/Machine/I2cEngine.lean ====
section
/-! DEFINITION. The procedures of the software I2C engine (41_i2c.md section 2) and the bodies of its capability operations
(section 3), which the I2C backends run too (44_backends.md R345). An acknowledge bit is a Bool: true = 1 = not acknowledged. -/

namespace Sys2Proof.Machine

/-- `i2c_start()` (41_i2c.md R183). -/
def i2cStart (s : State) : State :=
  let d := dI2c s
  let s := delay d (loScl (delay d (loSda s)))
  { s with i2cs := { s.i2cs with bus := .held } }

/-- `i2c_rstart()`, the repeated START (41_i2c.md R184). -/
def i2cRstart (s : State) : State :=
  let d := dI2c s
  delay d (loScl (delay d (loSda (delay d (relScl (delay d (relSda s)))))))

/-- `i2c_stop()` (41_i2c.md R185). -/
def i2cStop (s : State) : State :=
  let d := dI2c s
  let s := delay d (relSda (delay d (relScl (delay d (loSda s)))))
  { s with i2cs := { s.i2cs with bus := .idle } }

/-- SDA for a bit: released for 1, low for 0 (41_i2c.md R186). -/
def putSda (b : Bool) (s : State) : State := if b then relSda s else loSda s

/-- `i2c_txbit(b)` (41_i2c.md R186). -/
def i2cTxBit (b : Bool) (s : State) : State :=
  let d := dI2c s
  loScl (delay d (relScl (delay d (putSda b s))))

/-- `i2c_rxbit()` (41_i2c.md R187). -/
def i2cRxBit (s : State) : Bool × State :=
  let d := dI2c s
  let r := readPin .sda (delay d (relScl (delay d s)))
  (r.1, loScl r.2)

/-- `TMOCNT <- v`. -/
def setTmocnt (v : BitVec 16) (s : State) : State := { s with dp := { s.dp with tmocnt := v } }

/-- The poll of SCL (the loop of 41_i2c.md R188) with `ticks` waits left before TMOCNT = TACK: true when SCL was read high. -/
def i2cPoll (ticks : Nat) (s : State) : Bool × State :=
  match ticks with
  | 0 => readPin .scl s
  | ticks + 1 =>
    let c := readPin .scl s
    if c.1 then (true, c.2)
    else
      let s := delay 1 c.2
      i2cPoll ticks (setTmocnt (s.dp.tmocnt + 1) s)

/-- `i2c_ackpoll()` (41_i2c.md R188). -/
def i2cAckPoll (s : State) : Bool × State :=
  let d := dI2c s
  let p := i2cPoll s.cfg.i2c.tack.toNat (setTmocnt 0 (relScl (delay d (relSda s))))
  if p.1 then
    let a := readPin .sda (delay d p.2)
    (a.1, loScl a.2)
  else (true, setTmo (loScl p.2))

/-- `n` transmitted bits of SR, lowest first or highest first (the loop of 41_i2c.md R189). -/
def i2cTxBits (lsb : Bool) (n : Nat) (s : State) : State :=
  match n with
  | 0 => s
  | n + 1 =>
    let b := if lsb then s.dp.sr.getLsbD 0 else s.dp.sr.getLsbD 7
    let sr := if lsb then s.dp.sr >>> 1 else s.dp.sr <<< 1
    i2cTxBits lsb n (shiftSr sr (i2cTxBit b s))

/-- `if a = 0: ACKED <- min(ACKED + 1, 4095)` (41_i2c.md R189). -/
def countIfAcked (nack : Bool) (s : State) : State := if nack then s else countAck s

/-- A byte sent in a bit order, and its acknowledge (41_i2c.md R189, R190). -/
def i2cTxOrdered (lsb : Bool) (x : Byte) (s : State) : Bool × State :=
  let a := i2cAckPoll (i2cTxBits lsb 8 (loadSr x s))
  (a.1, countIfAcked a.1 (countByte a.2))

/-- `i2c_txbyte(x)`: a payload byte, in the configured order (41_i2c.md R189, 20_memory.md R88). -/
def i2cTxByte (x : Byte) (s : State) : Bool × State := i2cTxOrdered s.cfg.i2c.lsbf x s

/-- `i2c_txaddr(x)`: an address byte, LSB first only when AORD = 1 and LSBF = 1 (41_i2c.md R190). -/
def i2cTxAddr (x : Byte) (s : State) : Bool × State := i2cTxOrdered (s.cfg.i2c.aord && s.cfg.i2c.lsbf) x s

/-- `(SR << 1) | v`: a sampled bit enters from the bottom (41_i2c.md R191). -/
def shiftInBottom (sr : Byte) (v : Bool) : Byte := (sr <<< 1) ||| boolByte v

/-- `n` received bits (the loop of 41_i2c.md R191). -/
def i2cRxBits (n : Nat) (s : State) : State :=
  match n with
  | 0 => s
  | n + 1 =>
    let r := i2cRxBit s
    let sr := if r.2.cfg.i2c.lsbf then shiftInTop r.2.dp.sr r.1 else shiftInBottom r.2.dp.sr r.1
    i2cRxBits n (shiftSr sr r.2)

/-- `i2c_rxbyte(m)`: a received byte, then the initiator's acknowledge bit m (41_i2c.md R191). -/
def i2cRxByte (m : Bool) (s : State) : Byte × State :=
  let s := i2cTxBit m (i2cRxBits 8 (loadSr 0 (relSda s)))
  let s := countByte (shiftSr s.dp.sr s)
  (s.dp.sr, s)

/-- The one address byte of 7-bit addressing, `(A[6:0] << 1) | rw` (41_i2c.md R192). -/
def addr7Byte (a : BitVec 10) (rw : Bool) : Byte := (a.extractLsb' 0 7).setWidth 8 <<< 1 ||| boolByte rw

/-- The header of 10-bit addressing, `11110 A9 A8 rw` (41_i2c.md R192). -/
def addr10Header (a : BitVec 10) (rw : Bool) : Byte := 0xF0 ||| (a.extractLsb' 8 2).setWidth 8 <<< 1 ||| boolByte rw

/-- A step that runs only when the byte before it was acknowledged. -/
def ifAcked (a : Bool × State) (f : State → Bool × State) : Bool × State := if a.1 then a else f a.2

/-- The header and the low address byte of 10-bit addressing, stopping at the first not acknowledged (41_i2c.md R192). -/
def i2cAddr10Write (s : State) : Bool × State :=
  ifAcked (i2cTxAddr (addr10Header s.cfg.i2c.addr false) s) (fun t => i2cTxAddr (s.cfg.i2c.addr.extractLsb' 0 8) t)

/-- `i2c_addr(rw, combined)` (41_i2c.md R192). -/
def i2cAddrPhase (rw combined : Bool) (s : State) : Bool × State :=
  match s.cfg.i2c.amode with
  | .none => (false, s)
  | .a7 => i2cTxAddr (addr7Byte s.cfg.i2c.addr rw) s
  | .a10 =>
    if rw && combined then i2cTxAddr (addr10Header s.cfg.i2c.addr true) s
    else
      ifAcked (i2cAddr10Write s) (fun t =>
        if rw then i2cTxAddr (addr10Header s.cfg.i2c.addr true) (i2cRstart t) else (false, t))

/-- `i2c_txbyte` of each byte in order, stopping at the first not acknowledged; true when one was not. -/
def i2cTxAll (bs : List Byte) (s : State) : Bool × State :=
  match bs with
  | [] => (false, s)
  | b :: bs => ifAcked (i2cTxByte b s) (i2cTxAll bs)

/-- `n` received bytes, each acknowledged but the last (41_i2c.md R197, R198). -/
def i2cRxAll (n : Nat) (s : State) : List Byte × State :=
  match n with
  | 0 => ([], s)
  | n + 1 =>
    let r := i2cRxByte (decide (n = 0)) s
    let q := i2cRxAll n r.2
    (r.1 :: q.1, q.2)

/-- The body of I2C.WRITE_CMD_DATA on the bytes to send: START, the address, the bytes, STOP; the STOP comes at once after a
byte not acknowledged (41_i2c.md R193, R194). True when every byte was acknowledged. -/
def i2cWrite (bs : List Byte) (s : State) : Bool × State :=
  let a := ifAcked (i2cAddrPhase false false (i2cStart (clearByteCount s))) (i2cTxAll bs)
  (!a.1, i2cStop a.2)

/-- A read phase of `n` bytes and the STOP; no byte and the STOP after an address not acknowledged (41_i2c.md R193, R197,
R198). -/
def i2cReadPhase (n : Nat) (a : Bool × State) : Bool × List Byte × State :=
  if a.1 then (false, [], i2cStop a.2)
  else
    let r := i2cRxAll n a.2
    (true, r.1, i2cStop r.2)

/-- The body of I2C.READ_DATA for n ≥ 1 (41_i2c.md R198). -/
def i2cReadData (n : Nat) (s : State) : Bool × List Byte × State :=
  i2cReadPhase n (i2cAddrPhase true false (i2cStart s))

/-- The repeated START and the read address of a combined read; nothing with AMODE = NONE (41_i2c.md R197, D13). -/
def i2cTurnToRead (s : State) : Bool × State :=
  match s.cfg.i2c.amode with
  | .none => (false, s)
  | _ => i2cAddrPhase true true (i2cRstart s)

/-- The transaction of I2C.READ_CMD_DATA, from its first event to its last (41_i2c.md R197): nothing for n = 0, that of
I2C.READ_DATA for no command bytes. -/
def i2cReadTransfer (cs : List Byte) (n : Nat) (s : State) : Bool × List Byte × State :=
  if n = 0 then (true, [], s)
  else if cs.isEmpty then i2cReadData n s
  else
    let w := ifAcked (i2cAddrPhase false false (i2cStart s)) (i2cTxAll cs)
    i2cReadPhase n (ifAcked w i2cTurnToRead)

/-- I2C.READ_CMD_DATA after its checks: `BYTECNT <- 0`, then the transaction (41_i2c.md section 3, R197). -/
def i2cRead (cs : List Byte) (n : Nat) (s : State) : Bool × List Byte × State := i2cReadTransfer cs n (clearByteCount s)

/-- Finish a read: its bytes to RXQ, OK or ACKF (41_i2c.md R193, R197). -/
def finishRead (r : Bool × List Byte × State) : Result := finish (ackCode r.1) (emitAll r.2.1 r.2.2)

end Sys2Proof.Machine
end

