-- ==== Sys2Proof/Machine/Layout.lean ====
section
/-! DEFINITION. The layout datapath (43_layout.md): the indicator merge, the scatter by the character-order map, the four
layout transforms, the 8×8 bit-matrix transpose, and the LED clock frame. Pure functions, but for `layOut`, which writes WBUF. -/

namespace Sys2Proof.Machine

/-- The zero frame. -/
def zeroFrame : Frame := Seven.replicate 0

/-- `scatter(L, O)`: later positions overwrite earlier ones, slots named by no entry are 0 (43_layout.md R302). -/
def scatter (l : Frame) (o : Seven (Fin 7)) : Frame :=
  seven.foldl (fun w i => w.set (o.get i) (l.get i)) zeroFrame

/-- A byte from its eight bits, bit i = `f i`. -/
def byteOfBits (f : Fin 8 → Bool) : Byte :=
  boolByte (f 7) <<< 7 ||| boolByte (f 6) <<< 6 ||| boolByte (f 5) <<< 5 ||| boolByte (f 4) <<< 4 |||
    boolByte (f 3) <<< 3 ||| boolByte (f 2) <<< 2 ||| boolByte (f 1) <<< 1 ||| boolByte (f 0)

/-- `transpose8(B)`: bit c of row r is bit r of row c (43_layout.md R320, the definition). -/
def transpose8 (b : Block) : Block :=
  Eight.ofFn (fun r => byteOfBits (fun c => (b.get c).getLsbD r.val))

/-- Byte i of the block at bits 8i..8i+7 of a 64-bit word (20_memory.md R90, 43_layout.md R321). -/
def packBlock (b : Block) : BitVec 64 :=
  b.b0.setWidth 64 ||| b.b1.setWidth 64 <<< 8 ||| b.b2.setWidth 64 <<< 16 ||| b.b3.setWidth 64 <<< 24 |||
    b.b4.setWidth 64 <<< 32 ||| b.b5.setWidth 64 <<< 40 ||| b.b6.setWidth 64 <<< 48 ||| b.b7.setWidth 64 <<< 56

/-- The block of a 64-bit word (20_memory.md R90). -/
def unpackBlock (x : BitVec 64) : Block := Eight.ofFn (fun i => x.extractLsb' (8 * i.val) 8)

/-- One masked XOR-swap pass at a distance (43_layout.md R321). -/
def swapPass (k : Nat) (mask : BitVec 64) (x : BitVec 64) : BitVec 64 :=
  let t := (x ^^^ (x >>> k)) &&& mask
  x ^^^ t ^^^ (t <<< k)

/-- The transpose by three XOR-swap passes (43_layout.md R321); R320 is the definition. -/
def transposeBySwaps (b : Block) : Block :=
  unpackBlock (swapPass 28 0x00000000F0F0F0F0 (swapPass 14 0x0000CCCC0000CCCC (swapPass 7 0x00AA00AA00AA00AA (packBlock b))))

/-- `xf_direct(L, O)` (43_layout.md R303). -/
def xfDirect (l : Frame) (o : Seven (Fin 7)) : Frame := scatter l o

/-- `(L[i][7:0] << 1) & 0xFF` (43_layout.md R304). -/
def shiftedByte (w : Word) : Byte := lowByte w <<< 1

/-- The block T of the transposed layout (43_layout.md R304). -/
def transposedBlock (l : Frame) : Block :=
  ⟨shiftedByte l.a0, shiftedByte l.a1, shiftedByte l.a2, shiftedByte l.a3, shiftedByte l.a4, shiftedByte l.a5,
    shiftedByte l.a6, 0⟩

/-- The rows U[1..7] as words, row j+1 at position j (43_layout.md R304). -/
def rowFrame (u : Block) : Frame :=
  (⟨u.b1, u.b2, u.b3, u.b4, u.b5, u.b6, u.b7⟩ : Seven Byte).map (fun b => b.setWidth 16)

/-- `xf_transposed(L, O)` (43_layout.md R304). -/
def xfTransposed (l : Frame) (o : Seven (Fin 7)) : Frame := scatter (rowFrame (transpose8 (transposedBlock l))) o

/-- `untranspose(W, O)`, the inverse of the transposed layout for a permutation O (43_layout.md R331). -/
def untranspose (w : Frame) (o : Seven (Fin 7)) : Seven Byte :=
  let u : Block :=
    ⟨0, lowByte (w.get (o.get 0)), lowByte (w.get (o.get 1)), lowByte (w.get (o.get 2)), lowByte (w.get (o.get 3)),
      lowByte (w.get (o.get 4)), lowByte (w.get (o.get 5)), lowByte (w.get (o.get 6))⟩
  let t := transpose8 u
  (⟨t.b0, t.b1, t.b2, t.b3, t.b4, t.b5, t.b6⟩ : Seven Byte).map (fun b => b.ushiftRight 1)

/-- `NARROW_COLON_POS`, the logical digit 1..5 that carries the colon (43_layout.md R305). -/
def narrowColonPos (p : Params) : Fin 7 :=
  match p.narrowColon with
  | 0 => 1
  | 1 => 2
  | 2 => 3
  | 3 => 4
  | 4 => 5

/-- `xf_narrow5(L, O)` (43_layout.md R305), given the colon mask and the digit that carries the colon. -/
def xfNarrow5 (colonMask : Word) (pos : Fin 7) (l : Frame) (o : Seven (Fin 7)) : Frame :=
  let n : Frame := ⟨0, l.a1, l.a2, l.a3, l.a4, l.a5, 0⟩
  let n := if l.a0 &&& colonMask = 0 then n else n.set pos (n.get pos ||| 0x0080)
  scatter n o

/-- `(W[k] | ((W[k] & 0x00E0) << 6)) & 0xFFFF` (43_layout.md R306). -/
def muxWord (w : Word) : Word := w ||| ((w &&& 0x00E0) <<< 6)

/-- `xf_muxext(L, O)` (43_layout.md R306). -/
def xfMuxext (l : Frame) (o : Seven (Fin 7)) : Frame := (scatter l o).map muxWord

/-- The narrow layout on the panel of the applied descriptor (43_layout.md R305). -/
def narrowOn (s : State) (l : Frame) (o : Seven (Fin 7)) : Frame :=
  xfNarrow5 (dotMask s iconColon) (narrowColonPos s.par) l o

/-- The transform LAYOUT selects (43_layout.md R307). -/
def transform (s : State) (l : Frame) : Frame :=
  match s.ctlr.layout with
  | .direct => xfDirect l s.ctlr.order
  | .transposed => xfTransposed l s.ctlr.order
  | .narrow5 => narrowOn s l s.ctlr.order
  | .muxext => xfMuxext l s.ctlr.order

/-- The indicator merge `L[0] <- L[0] | ICON` (43_layout.md R301). -/
def mergeIcons (icon : Word) (raw : Frame) : Frame := { raw with a0 := raw.a0 ||| icon }

/-- `lay_out(raw)`: merge, transform, and rewrite all seven slots of WBUF (43_layout.md R307). -/
def layOut (raw : Frame) (s : State) : State := { s with wbuf := transform s (mergeIcons s.ctlr.icon raw) }

/-- The glyph of a decimal digit, `dg(v)` (43_layout.md R309). -/
def digitMask (p : Params) (v : Nat) : Word := (charToMask p (byteOfNat (0x30 + v))).setWidth 16

/-- `led_clock(h, m, s, colon)` (43_layout.md R309). -/
def ledClock (st : State) (h m s : Nat) (colon : Bool) : Frame :=
  let dg := digitMask st.par
  { a0 := if colon then dotMask st iconColon else 0
    a1 := dg (h / 10)
    a2 := dg (h % 10)
    a3 := dg (m / 10)
    a4 := dg (m % 10)
    a5 := if flag st .secsShown then dg (s / 10) else 0
    a6 := if flag st .secsShown then dg (s % 10) else 0 }

/-- The logical frame of a DisplayData record on LED: the clock frame in clock mode, LED_COMPOSE otherwise (42_controller.md
R251). -/
def displayFrame (s : State) (dd : DisplayData) : Frame :=
  if dd.mode = .clock then ledClock s dd.hours.val dd.minutes.val dd.seconds.val dd.colon else ledCompose s.par dd

end Sys2Proof.Machine
end

