-- ==== Sys2Proof/Machine/Backends.lean ====
section
/-! DEFINITION. The controller backends (44_backends.md): the bus commands each one's operations are made of, the procedures
that run them on the backend's bus, the bring-up of each backend, and the body of INIT (42_controller.md R241). Parameters
are applied by name; a definition says which rule gives its default. -/

namespace Sys2Proof.Machine

/-- `bus_write(cs, ds)` on the bus of the active backend: the body of the write from its first event to its last, with
`BYTECNT <- 0` on I2C alone (44_backends.md R345). -/
def busWrite (cs ds : List Byte) (s : State) : Bool × State :=
  match busOf s.par s.ctlr.active with
  | .tw => (true, twWriteFrame (cs ++ ds) s)
  | .i2c => i2cWrite (cs ++ ds) (clearAcked s)
  | .none => (true, s)

/-- `bus_read(cs, n)` on the bus of the active backend: the body of the read from its first event to its last, with no
`BYTECNT <- 0` (44_backends.md R345). -/
def busRead (cs : List Byte) (n : Nat) (s : State) : Bool × List Byte × State :=
  match busOf s.par s.ctlr.active with
  | .tw => (true, twReadFrame cs n s)
  | .i2c => i2cReadTransfer cs n s
  | .none => (true, [], s)

/-- The read of CTL.READ_RAW: nothing on DUMMY, else the bytes after the backend's read command (42_controller.md R249). -/
def rawRead (n : Nat) (s : State) : Bool × List Byte × State :=
  match s.ctlr.active with
  | .dummy => (true, [], s)
  | b => busRead (readCmd s.par b) n s

/-- `run(list)`: every command runs, whatever the others' results (44_backends.md R345, 42_controller.md R260). -/
def run (cmds : List Cmd) (s : State) : Bool × State :=
  match cmds with
  | [] => (true, s)
  | .w cs ds :: cmds =>
    let a := busWrite cs ds s
    let b := run cmds a.2
    (a.1 && b.1, b.2)
  | .d n :: cmds => run cmds (delay n s)

/-- A byte with one bit set. -/
def bitAt (k : Fin 8) (v : Bool) : Byte := if v then 1 <<< k.val else 0

/-- `port(nib, rs)`: the expander byte of a nibble, with the backlight bit from POWER and RW and EN low (44_backends.md
R351). -/
def lcdPort (m : LcdMap) (power : Bool) (nib : BitVec 4) (rs : Bool) : Byte :=
  bitAt m.rs rs ||| bitAt m.bl power ||| bitAt m.d4 (nib.getLsbD 0) ||| bitAt m.d5 (nib.getLsbD 1) |||
    bitAt m.d6 (nib.getLsbD 2) ||| bitAt m.d7 (nib.getLsbD 3)

/-- `lcd_write4(nib, rs)`: EN high, then EN low (44_backends.md R352). -/
def lcdWrite4 (p : Params) (power : Bool) (nib : BitVec 4) (rs : Bool) : Cmd :=
  .w [] [lcdPort p.lcdMap power nib rs ||| bitAt p.lcdMap.en true, lcdPort p.lcdMap power nib rs]

/-- `lcd_write8(b, rs)`: the high nibble, the low nibble, the settling wait (44_backends.md R353). -/
def lcdWrite8 (p : Params) (power : Bool) (b : Byte) (rs : Bool) : List Cmd :=
  [lcdWrite4 p power (b.extractLsb' 4 4) rs, lcdWrite4 p power (b.extractLsb' 0 4) rs, .d p.lcdTCmd]

/-- The display-control command, `0x08 | (on << 2)` (44_backends.md R354, R356). -/
def lcdDisplayControl (on : Bool) : Byte := 0x08 ||| bitAt 2 on

/-- The bring-up of the character LCD (44_backends.md R354). -/
def lcdInitCmds (p : Params) (power : Bool) : List Cmd :=
  [.d p.lcdTPwr,
   lcdWrite4 p power 0x3 false, .d p.lcdTInit1,
   lcdWrite4 p power 0x3 false, .d p.lcdTInit2,
   lcdWrite4 p power 0x3 false, .d p.lcdTInit2,
   lcdWrite4 p power 0x2 false, .d p.lcdTInit2] ++
  lcdWrite8 p power 0x28 false ++
  lcdWrite8 p power (lcdDisplayControl power) false ++
  lcdWrite8 p power 0x01 false ++ [.d p.lcdTClr] ++
  lcdWrite8 p power 0x06 false

/-- `oled_cmd(bs)` (44_backends.md R357). -/
def oledCmd (bs : List Byte) : Cmd := .w [0x00] bs

/-- `oled_data(bs)` (44_backends.md R357). -/
def oledData (bs : List Byte) : Cmd := .w [0x40] bs

/-- The default LED brightness and power byte, `0x80 | (on << 3) | l`: the mode nibble, the enable bit, and the level in bits
2:0 (44_backends.md R349). A level that LEVELS of another backend let above 7 gives its bits 2:0 (DEDUCED, log entry 13), so
the enable bit is POWER's alone (42_controller.md R258). -/
def ledBrightByte (l : Byte) (on : Bool) : Byte := 0x80 ||| bitAt 3 on ||| (l &&& 0x07)

/-- `BRIGHT_CMD(backend, l, on)` of 44_backends.md R349, R356, R366 and R367. `power` is the POWER register that the LCD's
port bytes carry (R351). -/
def brightCmdDefault (p : Params) (power : Bool) (b : Backend) (l : Byte) (on : Bool) : List Cmd :=
  match b with
  | .led => [.w [ledBrightByte l on] []]
  | .lcd => .w [] [bitAt p.lcdMap.bl on] :: lcdWrite8 p power (lcdDisplayControl on) false
  | .oledA => [oledCmd [0x81, oledContrast p l, if on then 0xAF else 0xAE]]
  | .oledB => [oledCmd [0x81, oledContrast p l, if on then 0xAF else 0xAE]]
  | .dummy => []

/-- `BRIGHT_CMD(backend, l, on)`: the parameter's entry, else the rules' command (00_scope.md R8). -/
def brightCmd (p : Params) (power : Bool) (b : Backend) (l : Byte) (on : Bool) : List Cmd :=
  (p.brightCmd.lookup (b, l, on)).getD (brightCmdDefault p power b l on)

/-- The column and page window over the whole panel of revision A: step 16 of R358 and the window of R359. The spec does not say
what byte the last column or page of a panel with no column or no page is; here it is 0x00 (DESIGN CHOICE, log entry 14). -/
def oledFullWindow (p : Params) : List Byte :=
  [0x21, 0x00, byteOfNat (p.oledCols - 1), 0x22, 0x00, byteOfNat (p.oledBanks - 1)]

/-- The charge pump, the one bring-up command that differs between the revisions (44_backends.md R358, step 6). -/
def oledChargePump (r : Rev) (ext : Bool) : List Byte :=
  match r with
  | .a => [0x8D, if ext then 0x10 else 0x14]
  | .b => [0xAD, 0x8B]

/-- The addressing window, which revision B leaves out (44_backends.md R358, step 16). -/
def oledInitWindow (p : Params) (r : Rev) : List Byte :=
  match r with
  | .a => oledFullWindow p
  | .b => []

/-- The default `OLED_INIT(rev, DESC)`: the sixteen steps of 44_backends.md R358. The spec does not say what byte the multiplex
ratio of a panel with no page is; here it is 0x00 (DESIGN CHOICE, log entry 14). -/
def oledInitDefault (p : Params) (r : Rev) (desc : BitVec 32) (bright : Byte) : List Byte :=
  let ext := flagOf p desc .extSupply
  let rot := flagOf p desc .rotated
  let alt := flagOf p desc .altComConfig
  let inv := flagOf p desc .inverted
  [0xAE, 0xD5, 0x80, 0xA8, byteOfNat (8 * p.oledBanks - 1), 0xD3, 0x00, 0x40] ++ oledChargePump r ext ++
    [0x20, 0x00, if rot then 0xA0 else 0xA1, if rot then 0xC0 else 0xC8, 0xDA, if alt then 0x12 else 0x02,
     0x81, oledContrast p bright, 0xD9, if ext then 0x22 else 0xF1, 0xDB, 0x40, 0xA4, if inv then 0xA7 else 0xA6] ++
    oledInitWindow p r

/-- `OLED_INIT(rev, DESC)`: the parameter's entry, else the default (00_scope.md R8). -/
def oledInit (p : Params) (r : Rev) (desc : BitVec 32) (bright : Byte) : List Byte :=
  (p.oledInit.lookup (r, desc)).getD (oledInitDefault p r desc bright)

/-- A page-set command of revision B: page, column low, column high (44_backends.md R359, R361). -/
def oledPageCmd (page col : Nat) : Cmd :=
  oledCmd [0xB0 ||| byteOfNat page, byteOfNat (col % 16), 0x10 ||| byteOfNat (col / 16)]

/-- `oled_clear()` (44_backends.md R359). -/
def oledClear (p : Params) (r : Rev) : List Cmd :=
  match r with
  | .a => [oledCmd (oledFullWindow p), oledData (List.replicate (p.oledCols * p.oledBanks) 0)]
  | .b => (List.range p.oledBanks).flatMap (fun page => [oledPageCmd page 0, oledData (List.replicate p.oledRamCols 0)])

/-- `oled_window_A` (44_backends.md R360). -/
def oledWindowA (c0 c1 p0 p1 : Byte) (data : List Byte) : List Cmd := [oledCmd [0x21, c0, c1, 0x22, p0, p1], oledData data]

/-- `oled_window_B`: one page-set command and one row of data for each page p0..p1 (44_backends.md R361). -/
def oledWindowB (p : Params) (c0 c1 p0 p1 : Byte) (data : List Byte) : List Cmd :=
  let w := c1.toNat + 1 - c0.toNat
  (List.range (p1.toNat + 1 - p0.toNat)).flatMap (fun i =>
    [oledPageCmd (p0.toNat + i) (c0.toNat + p.oledColOff), oledData ((data.drop (i * w)).take w)])

/-- The idle TW bus re-established: STB and CLK high, DIO released (44_backends.md R346). -/
def ledLines (s : State) : State :=
  let s := relDio (setClk true (setStb true s))
  delay (d3 s) { s with tws := { s.tws with dir := .input } }

/-- LED INIT over TW: the idle bus, then the display-mode command (44_backends.md R346). -/
def ledInitTw (s : State) : Bool × State := run [.w [s.par.twModeCmd] []] (ledLines s)

/-- `backend_init(ACTIVE)` (44_backends.md R346, R354, R358, R367). An LED on no bus has no bring-up (DEDUCED, log entry 18). -/
def backendInit (s : State) : Bool × State :=
  match s.ctlr.active with
  | .led =>
    match busOf s.par .led with
    | .tw => ledInitTw s
    | .i2c => run (ledI2cInit s.par) s
    | .none => (true, s)
  | .lcd => run (lcdInitCmds s.par s.ctlr.power) s
  | .oledA => run (oledCmd (oledInit s.par .a s.ctlr.desc s.ctlr.bright) :: oledClear s.par .a) s
  | .oledB => run (oledCmd (oledInit s.par .b s.ctlr.desc s.ctlr.bright) :: oledClear s.par .b) s
  | .dummy => (true, s)

/-- `led_emit()` (44_backends.md R347, R348). An LED on no bus emits nothing (DEDUCED, log entry 18). -/
def ledEmit (s : State) : Bool × State :=
  match busOf s.par .led with
  | .tw => run [.w [s.par.twDataCmd] [], .w [s.par.twAddrCmd] (frameBytes s.wbuf)] s
  | .i2c => run (ledI2cEmit s.par s.wbuf) s
  | .none => (true, s)

/-- The write that carries BRIGHT and POWER to the target, `run(BRIGHT_CMD(ACTIVE, BRIGHT, POWER))` (42_controller.md R241,
R243, R245, R258). -/
def sendBrightness (s : State) : Bool × State :=
  run (brightCmd s.par s.ctlr.power s.ctlr.active s.ctlr.bright s.ctlr.power) s

/-- `ACTIVE <- b`. -/
def setActive (b : Backend) (s : State) : State := { s with ctlr := { s.ctlr with active := b } }

/-- `apply_address()` (44_backends.md R344). -/
def applyAddress (s : State) : State :=
  if busOf s.par (backendOf s.par s.ctlr.desc) = .i2c ∧ descAddr s.ctlr.desc ≠ 0 then
    { s with cfg := { s.cfg with i2c :=
        { s.cfg.i2c with addr := ((descAddr s.ctlr.desc) &&& 0x7F).setWidth 10, amode := .a7 } } }
  else s

/-- `probe()`: an address-only transaction (44_backends.md R368). -/
def probe (s : State) : Bool × State := busWrite [] [] s

/-- The presence probe of INIT: only on I2C; a failure makes the active backend DUMMY (42_controller.md R241, 44_backends.md
R368). -/
def probeTarget (s : State) : State :=
  if busOf s.par s.ctlr.active = .i2c then
    let r := probe s
    setActive (if r.1 then r.2.ctlr.active else .dummy) r.2
  else s

/-- BYTECNT at the start of a bring-up over TW: 0, so that INIT repeated gives the same state, as 42_controller.md R241 and R259
say; `bus_write` sets it on I2C alone (44_backends.md R345; DEDUCED, log entry 12). -/
def startByteCount (s : State) : State := if busOf s.par s.ctlr.active = .tw then clearByteCount s else s

/-- `init_body()` (42_controller.md R241). -/
def initBody (s : State) : Bool × State :=
  let s := startByteCount (probeTarget (applyAddress (setActive (backendOf s.par s.ctlr.desc) s)))
  let a := backendInit s
  let b := sendBrightness a.2
  (a.1 && b.1, b.2)

/-- The bus commands of one LCD character at a column: set-address, then the character (44_backends.md R355). -/
def lcdPut (p : Params) (power : Bool) (col ch : Byte) : List Cmd :=
  lcdWrite8 p power (0x80 ||| col) false ++ lcdWrite8 p power ch true

/-- The bus commands of `lcd_write_raw(raw, n)` (44_backends.md R355). -/
def lcdRawCmds (s : State) (raw : Frame) (n : Nat) : List Cmd :=
  let p := s.par
  let put := lcdPut p s.ctlr.power
  let colon := (raw.a0 ||| s.ctlr.icon) &&& dotMask s iconColon ≠ 0
  (if 1 ≤ n then put p.lcdColonCol (if colon then 0x3A else 0x20) else []) ++
  (if 1 < n then put p.lcdCol1 (lowByte raw.a1) else []) ++
  (if 2 < n then put p.lcdCol2 (lowByte raw.a2) else []) ++
  (if 3 < n then put p.lcdCol3 (lowByte raw.a3) else []) ++
  (if 4 < n then put p.lcdCol4 (lowByte raw.a4) else [])

end Sys2Proof.Machine
end

