-- ==== Sys2Proof/Machine/Ctl.lean ====
section
/-! DEFINITION. The meanings of the UNIT 3 and UNIT 6 commands (42_controller.md). Every register write a command makes is
kept when a bus step fails (R260). -/

namespace Sys2Proof.Machine

/-- CTL.INIT (42_controller.md R241). -/
def execCtlInit (txp : List Byte) (s : State) : Result :=
  controller 0 txp (fun s => finishAck (initBody s)) s

/-- CTL.GET_BRIGHTNESS (42_controller.md R242). -/
def execCtlGetBrightness (txp : List Byte) (s : State) : Result :=
  controller 0 txp (fun s => finish .ok (emit s.ctlr.bright s)) s

/-- `BRIGHT <- l`. -/
def setBright (l : Byte) (s : State) : State := { s with ctlr := { s.ctlr with bright := l } }

/-- CTL.SET_BRIGHTNESS (42_controller.md R243). -/
def execCtlSetBrightness (level : Byte) (txp : List Byte) (s : State) : Result :=
  controller 0 txp (fun s =>
    if levels s.par s.ctlr.active ≤ level.toNat then raise .reject s
    else finishAck (sendBrightness (setBright level s))) s

/-- CTL.GET_POWER (42_controller.md R244). -/
def execCtlGetPower (txp : List Byte) (s : State) : Result :=
  controller 0 txp (fun s => finish .ok (emit (boolByte s.ctlr.power) s)) s

/-- `POWER <- on`. -/
def setPower (on : Bool) (s : State) : State := { s with ctlr := { s.ctlr with power := on } }

/-- CTL.SET_POWER (42_controller.md R245). -/
def execCtlSetPower (on : Bool) (txp : List Byte) (s : State) : Result :=
  controller 0 txp (fun s => finishAck (sendBrightness (setPower on s))) s

/-- CTL.GET_DESCRIPTOR (42_controller.md R246). -/
def execCtlGetDescriptor (txp : List Byte) (s : State) : Result :=
  controller 0 txp (fun s => finish .ok (emitAll (descBytes s.ctlr.desc) s)) s

/-- `DESC <- d` and `LAYOUT <- LAYOUT_OF(d)` (42_controller.md R247). -/
def setDesc (d : BitVec 32) (s : State) : State :=
  { s with ctlr := { s.ctlr with desc := d, layout := layoutOf s.par d } }

/-- CTL.SET_DESCRIPTOR (42_controller.md R247). -/
def execCtlSetDescriptor (txp : List Byte) (s : State) : Result :=
  controller 4 txp (fun s =>
    if s.par.numTypes ≤ (txpByte txp 0).toNat then raise .reject s
    else finishAck (initBody (setDesc (descOfBytes txp) s))) s

/-- `ICON <- m`. -/
def setIconMask (m : Word) (s : State) : State := { s with ctlr := { s.ctlr with icon := m } }

/-- ICON with an icon's mask set or cleared (42_controller.md R248). -/
def iconWith (icon mask : Word) (on : Bool) : Word := if on then icon ||| mask else icon &&& ~~~mask

/-- CTL.SET_ICON (42_controller.md R248). -/
def execCtlSetIcon (id : BitVec 4) (on : Bool) (txp : List Byte) (s : State) : Result :=
  controller 0 txp (fun s => finish .ok (setIconMask (iconWith s.ctlr.icon (dotMask s id) on) s)) s

/-- CTL.READ_RAW (42_controller.md R249). -/
def execCtlReadRaw (n : Len) (txp : List Byte) (s : State) : Result :=
  controller 0 txp (fun s => finishRead (rawRead n.toNat s)) s

/-- The raw frame of n payload words, missing words 0 (42_controller.md R250). -/
def rawFrame (n : Nat) (txp : List Byte) : Frame :=
  Seven.ofFn (fun i => if i.val < n then txpWord txp i.val else 0)

/-- Finish WRITE_RAW: the count to RXQ, then OK or ACKF (42_controller.md R250). -/
def finishCount (n : Len) (r : Bool × State) : Result := finish (ackCode r.1) (emit (byteOfNat n.toNat) r.2)

/-- CTL.WRITE_RAW (42_controller.md R250). -/
def execCtlWriteRaw (n : Len) (txp : List Byte) (s : State) : Result :=
  controller (2 * n.toNat) txp (fun s =>
    if 7 < n.toNat then raise .length s
    else
      match s.ctlr.active with
      | .led => finishCount n (ledEmit (layOut (rawFrame n.toNat txp) s))
      | .lcd => finishCount n (run (lcdRawCmds s (rawFrame n.toNat txp) n.toNat) s)
      | .oledA => raise .unsupported s
      | .oledB => raise .unsupported s
      | .dummy => finishCount n (true, s)) s

/-- CTL.WRITE_DISPLAY_FRAME (42_controller.md R251). On LCD and OLED the frame goes to the rendering engine, which is out of
scope: the model refuses, as the rule says. -/
def execCtlWriteDisplayFrame (size : Len) (txp : List Byte) (s : State) : Result :=
  controller size.toNat txp (fun s =>
    if size.toNat ≠ s.par.ddSize then raise .length s
    else
      match s.ctlr.active with
      | .led => finishAck (ledEmit (layOut (displayFrame s (ddDecode s.par txp)) s))
      | .lcd => .refused .renderingEngine
      | .oledA => .refused .renderingEngine
      | .oledB => .refused .renderingEngine
      | .dummy => finish .ok s) s

/-- Every entry of a character-order payload is in 0..6 (42_controller.md R252). -/
def orderLegal (txp : List Byte) : Bool := txp.all (fun b => decide (b.toNat ≤ 6))

/-- The entry of ORDER a payload byte 0..6 stands for. -/
def orderEntry (b : Byte) : Fin 7 :=
  match b.toNat with
  | 0 => 0
  | 1 => 1
  | 2 => 2
  | 3 => 3
  | 4 => 4
  | 5 => 5
  | _ => 6

/-- `ORDER[i] <- TXP[i]` for i in 0..6 (42_controller.md R252). -/
def setOrder (txp : List Byte) (s : State) : State :=
  { s with ctlr := { s.ctlr with order := Seven.ofFn (fun i => orderEntry (txpByte txp i.val)) } }

/-- CTL.SET_ORDER (42_controller.md R252). -/
def execCtlSetOrder (txp : List Byte) (s : State) : Result :=
  controller 7 txp (fun s => if orderLegal txp then finish .ok (setOrder txp s) else raise .reject s) s

/-- CTL.SET_INDICATOR_MASK (42_controller.md R253). -/
def execCtlSetIndicatorMask (txp : List Byte) (s : State) : Result :=
  controller 2 txp (fun s => finish .ok (setIconMask (txpWord txp 0) s)) s

/-- CTL.GET_MODE (42_controller.md R254). -/
def execCtlGetMode (txp : List Byte) (s : State) : Result :=
  controller 0 txp (fun s => finish .ok (emit s.ctlr.mode s)) s

/-- `MODE <- v`. -/
def setMode (v : Byte) (s : State) : State := { s with ctlr := { s.ctlr with mode := v } }

/-- CTL.SET_MODE (42_controller.md R255). -/
def execCtlSetMode (mode : Byte) (txp : List Byte) (s : State) : Result :=
  controller 0 txp (fun s => finish .ok (setMode mode s)) s

/-- The registers CTL.RELOAD_DEFAULTS restores before its INIT (42_controller.md R256); WBUF and TWCFG are not touched. -/
def reloadDefaults (s : State) : State :=
  { s with
    ctlr :=
      { desc := s.par.defaultDesc, order := s.par.defaultOrder, bright := s.par.brightReset, power := s.par.powerReset,
        icon := 0, mode := 0, active := s.ctlr.active, layout := layoutOf s.par s.par.defaultDesc }
    cfg := { s.cfg with i2c := s.par.i2c } }

/-- CTL.RELOAD_DEFAULTS (42_controller.md R256). -/
def execCtlReloadDefaults (txp : List Byte) (s : State) : Result :=
  controller 0 txp (fun s => finishAck (initBody (reloadDefaults s))) s

/-- MISC.GET_VERSION (42_controller.md R257). -/
def execMiscGetVersion (txp : List Byte) (s : State) : Result :=
  controller 0 txp (fun s => finish .ok (emitAll s.par.version s)) s

end Sys2Proof.Machine
end

