-- ==== Sys2Proof/Machine/Dp.lean ====
section
/-! DEFINITION. The meanings of the UNIT 4 commands (43_layout.md section 5): pure functions of the payload and the controller
registers, which write no register but STATUS and RXQ and emit no event. -/

namespace Sys2Proof.Machine

/-- The block of eight payload bytes (43_layout.md R323). -/
def txpBlock (txp : List Byte) : Block := Eight.ofFn (fun i => txpByte txp i.val)

/-- Finish a DP command that returns a frame: 14 bytes, each word low byte first (43_layout.md R324). -/
def finishFrame (w : Frame) (s : State) : Result := finish .ok (emitAll (frameBytes w) s)

/-- DP.TRANSPOSE8 (43_layout.md R323). -/
def execDpTranspose8 (txp : List Byte) (s : State) : Result :=
  datapath 8 txp (fun s => finish .ok (emitAll (transpose8 (txpBlock txp)).toList s)) s

/-- DP.SCATTER (43_layout.md R324). -/
def execDpScatter (txp : List Byte) (s : State) : Result :=
  datapath 14 txp (fun s => finishFrame (scatter (txpFrame txp) s.ctlr.order) s) s

/-- DP.XF_DIRECT (43_layout.md R325). -/
def execDpXfDirect (txp : List Byte) (s : State) : Result :=
  datapath 14 txp (fun s => finishFrame (xfDirect (txpFrame txp) s.ctlr.order) s) s

/-- DP.XF_TRANSPOSED (43_layout.md R326). -/
def execDpXfTransposed (txp : List Byte) (s : State) : Result :=
  datapath 14 txp (fun s => finishFrame (xfTransposed (txpFrame txp) s.ctlr.order) s) s

/-- DP.XF_NARROW5 (43_layout.md R327). -/
def execDpXfNarrow5 (txp : List Byte) (s : State) : Result :=
  datapath 14 txp (fun s => finishFrame (narrowOn s (txpFrame txp) s.ctlr.order) s) s

/-- DP.XF_MUXEXT (43_layout.md R328). -/
def execDpXfMuxext (txp : List Byte) (s : State) : Result :=
  datapath 14 txp (fun s => finishFrame (xfMuxext (txpFrame txp) s.ctlr.order) s) s

/-- DP.CHAR_TO_MASK (43_layout.md R329). -/
def execDpCharToMask (code : Byte) (txp : List Byte) (s : State) : Result :=
  datapath 0 txp (fun s => finish .ok (emit (charToMask s.par code) s)) s

/-- DP.LED_CLOCK (43_layout.md R330). -/
def execDpLedClock (seconds : BitVec 6) (colon : Bool) (hours : BitVec 5) (minutes : BitVec 6) (txp : List Byte)
    (s : State) : Result :=
  datapath 0 txp (fun s =>
    if 23 < hours.toNat ∨ 59 < minutes.toNat ∨ 59 < seconds.toNat then raise .reject s
    else finishFrame (ledClock s hours.toNat minutes.toNat seconds.toNat colon) s) s

end Sys2Proof.Machine
end

