-- ==== Sys2Proof/Machine/I2c.lean ====
section
/-! DEFINITION. The meanings of the UNIT 1 commands (41_i2c.md sections 3 and 4). -/

namespace Sys2Proof.Machine

/-- I2C.READ_CMD_DATA (41_i2c.md R197). -/
def execI2cReadCmdData (m n : Len) (txp : List Byte) (s : State) : Result :=
  i2cCapability m.toNat txp (fun s => finishRead (i2cRead txp n.toNat s)) s

/-- I2C.READ_DATA (41_i2c.md R198). -/
def execI2cReadData (n : Len) (txp : List Byte) (s : State) : Result :=
  i2cCapability 0 txp (fun s => finishRead (i2cRead [] n.toNat s)) s

/-- I2C.READ_BYTE (41_i2c.md R199). -/
def execI2cReadByte (txp : List Byte) (s : State) : Result :=
  i2cCapability 0 txp (fun s => finishRead (i2cRead [] 1 s)) s

/-- I2C.WRITE_CMD_DATA (41_i2c.md R194). -/
def execI2cWriteCmdData (m n : Len) (txp : List Byte) (s : State) : Result :=
  i2cCapability (m.toNat + n.toNat) txp (fun s => finishAck (i2cWrite txp s)) s

/-- I2C.WRITE_DATA (41_i2c.md R195). -/
def execI2cWriteData (n : Len) (txp : List Byte) (s : State) : Result :=
  i2cCapability n.toNat txp (fun s => finishAck (i2cWrite txp s)) s

/-- I2C.WRITE_BYTE (41_i2c.md R196). -/
def execI2cWriteByte (b : Byte) (txp : List Byte) (s : State) : Result :=
  i2cCapability 0 txp (fun s => finishAck (i2cWrite [b] s)) s

/-- I2C.START: a repeated START when the bus is held (41_i2c.md R200). It is legal in both bus states. -/
def execI2cStart (txp : List Byte) (s : State) : Result :=
  command true 0 txp (fun s => finish .ok (if i2cIdle s then i2cStart s else i2cRstart s)) s

/-- I2C.STOP (41_i2c.md R201). -/
def execI2cStop (txp : List Byte) (s : State) : Result :=
  i2cPrimitive txp (fun s => finish .ok (i2cStop s)) s

/-- I2C.TXBIT (41_i2c.md R202). -/
def execI2cTxBit (bit : Bool) (txp : List Byte) (s : State) : Result :=
  i2cPrimitive txp (fun s => finish .ok (i2cTxBit bit s)) s

/-- I2C.RXBIT (41_i2c.md R203). -/
def execI2cRxBit (txp : List Byte) (s : State) : Result :=
  i2cPrimitive txp (fun s =>
    let r := i2cRxBit (relSda s)
    finish .ok (emit (boolByte r.1) r.2)) s

/-- A primitive that ends in an acknowledge bit: the bit to RXQ; ACKF when it is 1, with no STOP (41_i2c.md R193, R204). -/
def finishAckBit (a : Bool × State) : Result := finish (ackCode (!a.1)) (emit (boolByte a.1) a.2)

/-- I2C.ACKPOLL (41_i2c.md R204). -/
def execI2cAckPoll (txp : List Byte) (s : State) : Result :=
  i2cPrimitive txp (fun s => finishAckBit (i2cAckPoll s)) s

/-- I2C.TXBYTE (41_i2c.md R205). -/
def execI2cTxByte (b : Byte) (txp : List Byte) (s : State) : Result :=
  i2cPrimitive txp (fun s => finishAckBit (i2cTxByte b s)) s

/-- I2C.RXBYTE (41_i2c.md R206). -/
def execI2cRxByte (ack : Bool) (txp : List Byte) (s : State) : Result :=
  i2cPrimitive txp (fun s =>
    let r := i2cRxByte ack s
    finish .ok (emit r.1 r.2)) s

/-- I2C.ADDR (41_i2c.md R207). -/
def execI2cAddr (combined rw : Bool) (txp : List Byte) (s : State) : Result :=
  i2cPrimitive txp (fun s => finishAckBit (i2cAddrPhase rw combined s)) s

end Sys2Proof.Machine
end

