-- ==== Sys2Proof/Machine/Oled.lean ====
section
/-! DEFINITION. The meanings of the UNIT 5 commands, the OLED window port (44_backends.md R362 to R365): UNSUPPORTED on LED and
LCD, accepted and discarded on DUMMY (60_exceptions.md R406). -/

namespace Sys2Proof.Machine

/-- The backend cases of the OLED commands (44_backends.md R362): the revision's effect on OLED_A and OLED_B. -/
def onOled (effect : Rev → State → Result) (s : State) : Result :=
  match s.ctlr.active with
  | .oledA => effect .a s
  | .oledB => effect .b s
  | .dummy => finish .ok s
  | .led => raise .unsupported s
  | .lcd => raise .unsupported s

/-- OLED.CMD (44_backends.md R362). -/
def execOledCmd (n : Len) (txp : List Byte) (s : State) : Result :=
  controller n.toNat txp (onOled (fun _ s => finishAck (run [oledCmd txp] s))) s

/-- OLED.DATA (44_backends.md R363). -/
def execOledData (n : Len) (txp : List Byte) (s : State) : Result :=
  controller n.toNat txp (onOled (fun _ s => finishAck (run [oledData txp] s))) s

/-- A window inside the panel (44_backends.md R364). -/
def windowInside (p : Params) (c0 c1 p0 p1 : Byte) : Bool :=
  decide (c0.toNat ≤ c1.toNat ∧ c1.toNat < p.oledCols ∧ p0.toNat ≤ p1.toNat ∧ p1.toNat < p.oledBanks)

/-- The number of RAM bytes of a window (44_backends.md R364). -/
def windowArea (c0 c1 p0 p1 : Byte) : Nat := (c1.toNat - c0.toNat + 1) * (p1.toNat - p0.toNat + 1)

/-- The bus commands of a window write (44_backends.md R360, R361). -/
def oledWindow (p : Params) (r : Rev) (c0 c1 p0 p1 : Byte) (data : List Byte) : List Cmd :=
  match r with
  | .a => oledWindowA c0 c1 p0 p1 data
  | .b => oledWindowB p c0 c1 p0 p1 data

/-- OLED.WINDOW (44_backends.md R364). -/
def execOledWindow (n : Len) (txp : List Byte) (s : State) : Result :=
  controller (4 + n.toNat) txp (onOled (fun r s =>
    let c0 := txpByte txp 0
    let c1 := txpByte txp 1
    let p0 := txpByte txp 2
    let p1 := txpByte txp 3
    if windowInside s.par c0 c1 p0 p1 then
      if n.toNat = windowArea c0 c1 p0 p1 then finishAck (run (oledWindow s.par r c0 c1 p0 p1 (txp.drop 4)) s)
      else raise .length s
    else raise .reject s)) s

/-- OLED.CLEAR (44_backends.md R365). -/
def execOledClear (txp : List Byte) (s : State) : Result :=
  controller 0 txp (onOled (fun r s => finishAck (run (oledClear s.par r) s))) s

end Sys2Proof.Machine
end

