-- ==== Sys2Proof/Machine/Tw.lean ====
section
/-! DEFINITION. The meanings of the UNIT 2 commands (40_threewire.md sections 3 and 4). -/

namespace Sys2Proof.Machine

/-- Finish a TW read: its bytes to RXQ, always OK (40_threewire.md R149, R161). -/
def finishTwRead (r : List Byte × State) : Result := finish .ok (emitAll r.1 r.2)

/-- TW.READ_CMD_DATA (40_threewire.md R149). -/
def execTwReadCmdData (m n : Len) (txp : List Byte) (s : State) : Result :=
  twCapability m.toNat txp (fun s => finishTwRead (twRead txp n.toNat s)) s

/-- TW.READ_DATA (40_threewire.md R150). -/
def execTwReadData (n : Len) (txp : List Byte) (s : State) : Result :=
  twCapability 0 txp (fun s => finishTwRead (twRead [] n.toNat s)) s

/-- TW.READ_BYTE (40_threewire.md R151). -/
def execTwReadByte (txp : List Byte) (s : State) : Result :=
  twCapability 0 txp (fun s => finishTwRead (twRead [] 1 s)) s

/-- TW.WRITE_CMD_DATA (40_threewire.md R152). -/
def execTwWriteCmdData (m n : Len) (txp : List Byte) (s : State) : Result :=
  twCapability (m.toNat + n.toNat) txp (fun s => finish .ok (twWrite txp s)) s

/-- TW.WRITE_DATA (40_threewire.md R153). -/
def execTwWriteData (n : Len) (txp : List Byte) (s : State) : Result :=
  twCapability n.toNat txp (fun s => finish .ok (twWrite txp s)) s

/-- TW.WRITE_BYTE (40_threewire.md R154). -/
def execTwWriteByte (b : Byte) (txp : List Byte) (s : State) : Result :=
  twCapability 0 txp (fun s => finish .ok (twWrite [b] s)) s

/-- TW.BEGIN: SEQ when a frame is open (40_threewire.md R155). -/
def execTwBegin (txp : List Byte) (s : State) : Result :=
  command (twIdle s) 0 txp (fun s => finish .ok (twBegin s)) s

/-- TW.END: legal in mid-byte (40_threewire.md R156). -/
def execTwEnd (txp : List Byte) (s : State) : Result :=
  twPrimitive txp (fun s => finish .ok (twEnd s)) s

/-- TW.TXBIT (40_threewire.md R157). -/
def execTwTxBit (bit : Bool) (txp : List Byte) (s : State) : Result :=
  twBitPrimitive .output txp (twTurned .output (fun s => finish .ok (twTxBit bit s))) s

/-- TW.RXBIT (40_threewire.md R158). -/
def execTwRxBit (txp : List Byte) (s : State) : Result :=
  twBitPrimitive .input txp (twTurned .input (fun s =>
    let r := twRxBit s
    finish .ok (emit (boolByte r.1) r.2))) s

/-- TW.TXBYTE (40_threewire.md R159). -/
def execTwTxByte (b : Byte) (txp : List Byte) (s : State) : Result :=
  twBytePrimitive txp (twTurned .output (fun s => finish .ok (twTxByte b s))) s

/-- TW.RXBYTE (40_threewire.md R160). -/
def execTwRxByte (txp : List Byte) (s : State) : Result :=
  twBytePrimitive txp (twTurned .input (fun s =>
    let r := twRxByte s
    finish .ok (emit r.1 r.2))) s

end Sys2Proof.Machine
end

