-- ==== Sys2Proof/Machine/Dispatch.lean ====
section
/-! DEFINITION. The one match over Instr: each arm is one direct call of the instruction's meaning. -/

namespace Sys2Proof.Machine

def exec (i : Instr) (s : State) : Host.Outcome State Fault Refusal :=
  match i with
  | .i2cReadCmdData m n txp => Sys2Proof.Machine.execI2cReadCmdData m n txp s
  | .i2cReadData n txp => Sys2Proof.Machine.execI2cReadData n txp s
  | .i2cReadByte txp => Sys2Proof.Machine.execI2cReadByte txp s
  | .i2cWriteCmdData m n txp => Sys2Proof.Machine.execI2cWriteCmdData m n txp s
  | .i2cWriteData n txp => Sys2Proof.Machine.execI2cWriteData n txp s
  | .i2cWriteByte b txp => Sys2Proof.Machine.execI2cWriteByte b txp s
  | .i2cStart txp => Sys2Proof.Machine.execI2cStart txp s
  | .i2cStop txp => Sys2Proof.Machine.execI2cStop txp s
  | .i2cTxBit bit txp => Sys2Proof.Machine.execI2cTxBit bit txp s
  | .i2cRxBit txp => Sys2Proof.Machine.execI2cRxBit txp s
  | .i2cAckPoll txp => Sys2Proof.Machine.execI2cAckPoll txp s
  | .i2cTxByte b txp => Sys2Proof.Machine.execI2cTxByte b txp s
  | .i2cRxByte ack txp => Sys2Proof.Machine.execI2cRxByte ack txp s
  | .i2cAddr combined rw txp => Sys2Proof.Machine.execI2cAddr combined rw txp s
  | .twReadCmdData m n txp => Sys2Proof.Machine.execTwReadCmdData m n txp s
  | .twReadData n txp => Sys2Proof.Machine.execTwReadData n txp s
  | .twReadByte txp => Sys2Proof.Machine.execTwReadByte txp s
  | .twWriteCmdData m n txp => Sys2Proof.Machine.execTwWriteCmdData m n txp s
  | .twWriteData n txp => Sys2Proof.Machine.execTwWriteData n txp s
  | .twWriteByte b txp => Sys2Proof.Machine.execTwWriteByte b txp s
  | .twBegin txp => Sys2Proof.Machine.execTwBegin txp s
  | .twEnd txp => Sys2Proof.Machine.execTwEnd txp s
  | .twTxBit bit txp => Sys2Proof.Machine.execTwTxBit bit txp s
  | .twRxBit txp => Sys2Proof.Machine.execTwRxBit txp s
  | .twTxByte b txp => Sys2Proof.Machine.execTwTxByte b txp s
  | .twRxByte txp => Sys2Proof.Machine.execTwRxByte txp s
  | .ctlInit txp => Sys2Proof.Machine.execCtlInit txp s
  | .ctlGetBrightness txp => Sys2Proof.Machine.execCtlGetBrightness txp s
  | .ctlSetBrightness level txp => Sys2Proof.Machine.execCtlSetBrightness level txp s
  | .ctlGetPower txp => Sys2Proof.Machine.execCtlGetPower txp s
  | .ctlSetPower on txp => Sys2Proof.Machine.execCtlSetPower on txp s
  | .ctlGetDescriptor txp => Sys2Proof.Machine.execCtlGetDescriptor txp s
  | .ctlSetDescriptor txp => Sys2Proof.Machine.execCtlSetDescriptor txp s
  | .ctlSetIcon id on txp => Sys2Proof.Machine.execCtlSetIcon id on txp s
  | .ctlReadRaw n txp => Sys2Proof.Machine.execCtlReadRaw n txp s
  | .ctlWriteRaw n txp => Sys2Proof.Machine.execCtlWriteRaw n txp s
  | .ctlWriteDisplayFrame size txp => Sys2Proof.Machine.execCtlWriteDisplayFrame size txp s
  | .ctlSetOrder txp => Sys2Proof.Machine.execCtlSetOrder txp s
  | .ctlSetIndicatorMask txp => Sys2Proof.Machine.execCtlSetIndicatorMask txp s
  | .ctlGetMode txp => Sys2Proof.Machine.execCtlGetMode txp s
  | .ctlSetMode mode txp => Sys2Proof.Machine.execCtlSetMode mode txp s
  | .ctlReloadDefaults txp => Sys2Proof.Machine.execCtlReloadDefaults txp s
  | .dpTranspose8 txp => Sys2Proof.Machine.execDpTranspose8 txp s
  | .dpScatter txp => Sys2Proof.Machine.execDpScatter txp s
  | .dpXfDirect txp => Sys2Proof.Machine.execDpXfDirect txp s
  | .dpXfTransposed txp => Sys2Proof.Machine.execDpXfTransposed txp s
  | .dpXfNarrow5 txp => Sys2Proof.Machine.execDpXfNarrow5 txp s
  | .dpXfMuxext txp => Sys2Proof.Machine.execDpXfMuxext txp s
  | .dpCharToMask code txp => Sys2Proof.Machine.execDpCharToMask code txp s
  | .dpLedClock seconds colon hours minutes txp => Sys2Proof.Machine.execDpLedClock seconds colon hours minutes txp s
  | .oledCmd n txp => Sys2Proof.Machine.execOledCmd n txp s
  | .oledData n txp => Sys2Proof.Machine.execOledData n txp s
  | .oledWindow n txp => Sys2Proof.Machine.execOledWindow n txp s
  | .oledClear txp => Sys2Proof.Machine.execOledClear txp s
  | .miscGetVersion txp => Sys2Proof.Machine.execMiscGetVersion txp s

end Sys2Proof.Machine
end

