-- ==== Sys2Proof/Machine/Port.lean ====
section
/-! DEFINITION. The command port (30_encoding.md R110, R111; 20_memory.md R100): what the machine does with a command it has
accepted. -/

namespace Sys2Proof.Machine

/-- Run one command: the decoded instruction, or ILLEGAL for a word that is no defined encoding (60_exceptions.md R407). -/
def runCommand (c : Command) (s : State) : Result :=
  match decode c with
  | .ok i => exec i s
  | .error _ => illegal s

/-- The host's next input leaves the port. -/
def dropInput (s : State) : State := { s with env := { s.env with inbox := s.env.inbox.tail } }

/-- What the machine does with the input at the port: nothing while there is none (it is idle, 60_exceptions.md R419); a
command or a reset when SEQ = READY (20_memory.md R100, 70_reset_and_hazards.md R440). -/
def takeInput (s : State) : Result :=
  match s.env.inbox with
  | [] => .next s
  | .command c :: _ => if s.seq = .ready then runCommand c (dropInput s) else .fault .portBusy
  | .reset :: _ => if s.seq = .ready then .next (hostReset (dropInput s)) else .fault .portBusy

/-- The state with a command placed at the port, ready to be accepted by the next step (log entry 2). -/
def withCommand (c : Command) (s : State) : State :=
  { s with seq := .ready, refused := false, env := { s.env with inbox := .command c :: s.env.inbox } }

end Sys2Proof.Machine
end

