-- ==== Sys2Proof/Machine/Step.lean ====
section
/-! DEFINITION. One step of the machine: the host's next input, run to completion (00_scope.md R3). -/

namespace Sys2Proof.Machine

/-- One step: a run that a refused command has marked has no meaning (10_state.md R57); otherwise the input at the port is
taken. -/
def step (s : State) : Host.Outcome State Fault Refusal :=
  if s.refused then .refused .runRefused else takeInput s

/-- The command of the table's numbering stored where the step takes its next one: at the command port, with the port ready
(log entry 2). -/
def State.withFetchWord (s : State) (nbits w : Nat) : State := withCommand (tableCommand nbits w) s

end Sys2Proof.Machine
end

