-- ==== Sys2Proof/Machine/Assembler.lean ====
section
/-! DEFINITION. The assembler's operand forms (30_encoding.md R125) and the pseudo-commands (R126), as functions that build an
instruction: they fill LA, LB and TXP as R115 to R120 say. The textual spelling of a line (numbers, lists, mnemonics) is not
modelled. A pseudo-command is the same command as its expansion. -/

namespace Sys2Proof.Machine

/-- A length field from a list of bytes. -/
def lenOf (bs : List Byte) : Len := BitVec.ofNat 12 bs.length

/-- Words as payload bytes, low byte first (00_scope.md R15). -/
def wordBytes (ws : List Word) : List Byte := ws.flatMap (fun w => [lowByte w, highByte w])

/-- `I2C.WRITE_CMD_DATA {cmd}, {data}`. -/
def asmI2cWriteCmdData (cmd data : List Byte) : Instr := .i2cWriteCmdData (lenOf cmd) (lenOf data) (cmd ++ data)

/-- `TW.WRITE_CMD_DATA {cmd}, {data}`. -/
def asmTwWriteCmdData (cmd data : List Byte) : Instr := .twWriteCmdData (lenOf cmd) (lenOf data) (cmd ++ data)

/-- `I2C.READ_CMD_DATA {cmd}, n`. -/
def asmI2cReadCmdData (cmd : List Byte) (n : Len) : Instr := .i2cReadCmdData (lenOf cmd) n cmd

/-- `TW.READ_CMD_DATA {cmd}, n`. -/
def asmTwReadCmdData (cmd : List Byte) (n : Len) : Instr := .twReadCmdData (lenOf cmd) n cmd

/-- `I2C.WRITE_DATA {data}`. -/
def asmI2cWriteData (data : List Byte) : Instr := .i2cWriteData (lenOf data) data

/-- `TW.WRITE_DATA {data}`. -/
def asmTwWriteData (data : List Byte) : Instr := .twWriteData (lenOf data) data

/-- `OLED.CMD {data}`. -/
def asmOledCmd (data : List Byte) : Instr := .oledCmd (lenOf data) data

/-- `OLED.DATA {data}`. -/
def asmOledData (data : List Byte) : Instr := .oledData (lenOf data) data

/-- `OLED.WINDOW c0, c1, p0, p1, {data}`. -/
def asmOledWindow (c0 c1 p0 p1 : Byte) (data : List Byte) : Instr := .oledWindow (lenOf data) (c0 :: c1 :: p0 :: p1 :: data)

/-- `CTL.WRITE_RAW {words}`. -/
def asmCtlWriteRaw (ws : List Word) : Instr := .ctlWriteRaw (BitVec.ofNat 12 ws.length) (wordBytes ws)

/-- `CTL.SET_INDICATOR_MASK m`: the mask in TXP, low byte first. -/
def asmCtlSetIndicatorMask (m : Word) : Instr := .ctlSetIndicatorMask (wordBytes [m])

/-- `DP.LED_CLOCK hh, mm, ss, colon`. -/
def asmDpLedClock (hh : BitVec 5) (mm ss : BitVec 6) (colon : Bool) : Instr := .dpLedClock ss colon hh mm []

/-- `I2C.ADDR rw [, combined]`. -/
def asmI2cAddr (rw combined : Bool) : Instr := .i2cAddr combined rw []

/-- `I2C.PROBE` is `I2C.WRITE_DATA {}` (30_encoding.md R126). -/
def pseudoI2cProbe : Instr := asmI2cWriteData []

/-- `I2C.WRITE_REG r, v` (R126). -/
def pseudoI2cWriteReg (r v : Byte) : Instr := asmI2cWriteCmdData [r] [v]

/-- `I2C.READ_REG r, n` (R126). -/
def pseudoI2cReadReg (r : Byte) (n : Len) : Instr := asmI2cReadCmdData [r] n

/-- `TW.CMD b` (R126). -/
def pseudoTwCmd (b : Byte) : Instr := .twWriteByte b []

/-- `CTL.ON` and `CTL.OFF` (R126). -/
def pseudoCtlOn : Instr := .ctlSetPower true []
def pseudoCtlOff : Instr := .ctlSetPower false []

/-- `CTL.ICON_ON id` and `CTL.ICON_OFF id` (R126). -/
def pseudoCtlIconOn (id : BitVec 4) : Instr := .ctlSetIcon id true []
def pseudoCtlIconOff (id : BitVec 4) : Instr := .ctlSetIcon id false []

/-- `CTL.ORDER_IDENTITY` (R126). -/
def pseudoCtlOrderIdentity : Instr := .ctlSetOrder [0, 1, 2, 3, 4, 5, 6]

/-- The icon ids by name (10_state.md R54); `alt k` for k in 0..8 is id 7 + k. -/
def iconAlarm : BitVec 4 := 0
def iconUsb : BitVec 4 := 1
def iconPlay : BitVec 4 := 2
def iconPause : BitVec 4 := 3
def iconEth : BitVec 4 := 5
def iconWifi : BitVec 4 := 6
def iconAlt (k : Fin 9) : BitVec 4 := BitVec.ofNat 4 (7 + k.val)

end Sys2Proof.Machine
end

