-- ==== Sys2Proof/Machine/Wire.lean ====
section
/-! DEFINITION. The pin-event trace as the rules describe it: the event lists of the phases (40_threewire.md R142 to R146,
41_i2c.md R183 to R191), the duration of a trace (R163, R213), the oracle's answers by position, and what a target sees on
the wire (40_threewire.md R164; 41_i2c.md R214, with released lines reading high and no stretching). No step uses these: they
are the terms statements are made in. -/

namespace Sys2Proof.Machine

/-- The answer the `k`-th next Read will get (00_scope.md R7; log entry 3). -/
def answerAt (s : State) (k : Nat) : Bool := (s.env.answers[k]?).getD (Config.freeRead (s.env.reads + k))

/-- The state with `k` answers taken. -/
def afterAnswers (k : Nat) (s : State) : State :=
  { s with env := { s.env with answers := s.env.answers.drop k, reads := s.env.reads + k } }

/-- The state with events appended to its trace, the oldest of them first. -/
def withEvents (es : List Event) (s : State) : State :=
  { s with env := { s.env with traceRev := es.reverse ++ s.env.traceRev } }

/-- The bits of a byte, lowest first. -/
def bitsLow (x : Byte) : List Bool :=
  [x.getLsbD 0, x.getLsbD 1, x.getLsbD 2, x.getLsbD 3, x.getLsbD 4, x.getLsbD 5, x.getLsbD 6, x.getLsbD 7]

/-- The bits of a byte in a bit order: LSB first or MSB first (20_memory.md R87, R88). -/
def bitsIn (lsb : Bool) (x : Byte) : List Bool := if lsb then bitsLow x else (bitsLow x).reverse

/-- The byte whose bits were sampled in a bit order, `f i` the i-th (20_memory.md R87, R88). -/
def byteSampled (lsb : Bool) (f : Nat → Bool) : Byte :=
  byteOfBits (fun i => if lsb then f i.val else f (7 - i.val))

/-- The events of `tw_begin` (40_threewire.md R142). -/
def twOpenEvents (d : Nat) : List Event := [.set .stb false, .delay d]

/-- The events of `tw_end` (40_threewire.md R143). -/
def twCloseEvents (d : Nat) : List Event := [.set .stb true, .setInput .dio, .delay d]

/-- The events of `tw_txbit` (40_threewire.md R144). -/
def twBitEvents (d : Nat) (b : Bool) : List Event :=
  [.set .clk false, .set .dio b, .delay d, .set .clk true, .delay d]

/-- The events of `tw_rxbit` (40_threewire.md R145). -/
def twSampleEvents (d : Nat) (v : Bool) : List Event :=
  [.set .clk false, .delay d, .read .dio v, .set .clk true, .delay d]

/-- The events of `tw_txbyte` (40_threewire.md R146). -/
def twByteEvents (d : Nat) (x : Byte) : List Event := (bitsLow x).flatMap (twBitEvents d)

/-- The events of a strobe frame that sends bytes (40_threewire.md R152). -/
def twFrameEvents (d : Nat) (bs : List Byte) : List Event :=
  twOpenEvents d ++ bs.flatMap (twByteEvents d) ++ twCloseEvents d

/-- The datapath registers after `n` transmitted bytes (40_threewire.md R146, 41_i2c.md R189). -/
def dpAfterSent (n : Nat) (dp : Datapath) : Datapath :=
  if n = 0 then dp else { dp with sr := 0, bitcnt := 8, bytecnt := dp.bytecnt + BitVec.ofNat 12 n }

/-- CLK after `n` bytes: the first bit drives it, and every bit leaves it high (40_threewire.md R144, R145). -/
def clkAfter (n : Nat) (clk : TwDrive) : TwDrive := if n = 0 then clk else .driven true

/-- The TW engine between frames, after a frame of `n` bytes (40_threewire.md R143). -/
def twClosed (n : Nat) (t : TwState) : TwState :=
  { frame := .idle, dir := .input, bitcnt := 0, stb := .driven true, clk := clkAfter n t.clk, dio := .input }

/-- The events of a switch of DIO to input (40_threewire.md R148). -/
def twTurnEvents (d : Nat) : List Event := [.setInput .dio, .delay d]

/-- The events of `i2c_start` (41_i2c.md R183). -/
def i2cStartEvents (d : Nat) : List Event := [.set .sda false, .delay d, .set .scl false, .delay d]

/-- The events of `i2c_rstart` (41_i2c.md R184). -/
def i2cRstartEvents (d : Nat) : List Event :=
  [.setInput .sda, .delay d, .setInput .scl, .delay d, .set .sda false, .delay d, .set .scl false, .delay d]

/-- The events of `i2c_stop` (41_i2c.md R185). -/
def i2cStopEvents (d : Nat) : List Event :=
  [.set .sda false, .delay d, .setInput .scl, .delay d, .setInput .sda, .delay d]

/-- SDA for a bit (41_i2c.md R186). -/
def sdaEvent (b : Bool) : Event := if b then .setInput .sda else .set .sda false

/-- The events of `i2c_txbit` (41_i2c.md R186). -/
def i2cBitEvents (d : Nat) (b : Bool) : List Event :=
  [sdaEvent b, .delay d, .setInput .scl, .delay d, .set .scl false]

/-- The events of `i2c_rxbit` (41_i2c.md R187). -/
def i2cSampleEvents (d : Nat) (v : Bool) : List Event :=
  [.delay d, .setInput .scl, .delay d, .read .sda v, .set .scl false]

/-- The reads and waits of an ACK poll that finds SCL low `w` times (41_i2c.md R188). -/
def i2cWaitEvents (w : Nat) : List Event := (List.replicate w [Event.read .scl false, Event.delay 1]).flatten

/-- The events of an ACK poll that finds SCL high after `w` waits and samples `a` (41_i2c.md R188). -/
def i2cAckEvents (d w : Nat) (a : Bool) : List Event :=
  [.setInput .sda, .delay d, .setInput .scl] ++ i2cWaitEvents w ++ [.read .scl true, .delay d, .read .sda a, .set .scl false]

/-- The events of an ACK poll that times out after `w` waits (41_i2c.md R188). -/
def i2cTimeoutEvents (d w : Nat) : List Event :=
  [.setInput .sda, .delay d, .setInput .scl] ++ i2cWaitEvents w ++ [.read .scl false, .set .scl false]

/-- The events of a byte sent in a bit order, and of its acknowledge poll: SCL high after `w` waits, then `a` sampled
(41_i2c.md R189, R190). -/
def i2cByteEvents (lsb : Bool) (d w : Nat) (a : Bool) (x : Byte) : List Event :=
  (bitsIn lsb x).flatMap (i2cBitEvents d) ++ i2cAckEvents d w a

/-- The events of a byte received, `f i` the i-th bit sampled, and of the initiator's acknowledge (41_i2c.md R191). -/
def i2cReceiveEvents (d : Nat) (m : Bool) (f : Nat → Bool) : List Event :=
  [.setInput .sda] ++ (List.range 8).flatMap (fun i => i2cSampleEvents d (f i)) ++ i2cBitEvents d m

/-- The events of `n` received bytes, the last not acknowledged (41_i2c.md R197, R198); `f (8 j + i)` is bit `i` of byte `j` as
sampled. -/
def i2cReadEvents (d n : Nat) (f : Nat → Bool) : List Event :=
  (List.range n).flatMap (fun j => i2cReceiveEvents d (decide (j + 1 = n)) (fun i => f (8 * j + i)))

/-- The events of `n` bytes read from a TW target (40_threewire.md R147). -/
def twReadEvents (d n : Nat) (f : Nat → Bool) : List Event :=
  (List.range n).flatMap (fun j => (List.range 8).flatMap (fun i => twSampleEvents d (f (8 * j + i))))

/-- The bytes of `n` byte reads, `f (8 j + i)` the `i`-th bit sampled of byte `j` (20_memory.md R87, R88). -/
def bytesSampled (lsb : Bool) (n : Nat) (f : Nat → Bool) : List Byte :=
  (List.range n).map (fun j => byteSampled lsb (fun i => f (8 * j + i)))

/-- The datapath registers after `n` received bytes, `f (8 j + i)` the `i`-th bit sampled of byte `j`, and `bits` bit phases
a byte (40_threewire.md R147, 41_i2c.md R191). -/
def dpAfterRead (n : Nat) (lsb : Bool) (bits : BitVec 4) (f : Nat → Bool) (dp : Datapath) : Datapath :=
  match n with
  | 0 => dp
  | n + 1 =>
    { dp with
      sr := byteSampled lsb (fun i => f (8 * n + i)), bitcnt := bits, bytecnt := dp.bytecnt + BitVec.ofNat 12 (n + 1) }

/-- The events of a strobe frame that sends `cs` and then reads `n` bytes (40_threewire.md R149). -/
def twReadFrameEvents (d : Nat) (cs : List Byte) (n : Nat) (f : Nat → Bool) : List Event :=
  twOpenEvents d ++ cs.flatMap (twByteEvents d) ++ (if cs.isEmpty then [] else twTurnEvents d) ++ twReadEvents d n f ++
    twCloseEvents d

/-- The bit order of address bytes: LSB first only when AORD = 1 and LSBF = 1 (41_i2c.md R190). -/
def addressLsb (c : I2cCfg) : Bool := c.aord && c.lsbf

/-- The address bytes of a write (41_i2c.md R192). -/
def writeAddress (c : I2cCfg) : List Byte :=
  match c.amode with
  | .none => []
  | .a7 => [addr7Byte c.addr false]
  | .a10 => [addr10Header c.addr false, c.addr.extractLsb' 0 8]

/-- The address byte that turns a transaction to reading: the 7-bit address or the 10-bit header, with the read bit; none with
AMODE = NONE (41_i2c.md R192, R197). -/
def readAddress (c : I2cCfg) : List Byte :=
  match c.amode with
  | .none => []
  | .a7 => [addr7Byte c.addr true]
  | .a10 => [addr10Header c.addr true]

/-- Bytes as they go on the wire: each with its bit order, address bytes by AORD and LSBF, payload bytes by LSBF (20_memory.md
R88). -/
def wireBytes (c : I2cCfg) (addresses payload : List Byte) : List (Bool × Byte) :=
  addresses.map (fun x => (addressLsb c, x)) ++ payload.map (fun x => (c.lsbf, x))

/-- The events of bytes sent, each acknowledged at once. -/
def sentEvents (d : Nat) (ws : List (Bool × Byte)) : List Event := ws.flatMap (fun w => i2cByteEvents w.1 d 0 false w.2)

/-- What a read sends before its first received byte, in two parts with a repeated START between them: the START's part, and
the part that turns the transaction to reading (41_i2c.md R192, R197, R198). The second part is empty where there is no repeated
START. -/
def readRequest (c : I2cCfg) (cs : List Byte) : List (Bool × Byte) × List (Bool × Byte) :=
  match c.amode with
  | .none => (wireBytes c [] cs, [])
  | .a7 =>
    if cs.isEmpty then (wireBytes c (readAddress c) [], [])
    else (wireBytes c (writeAddress c) cs, wireBytes c (readAddress c) [])
  | .a10 => (wireBytes c (writeAddress c) cs, wireBytes c (readAddress c) [])

/-- How many bytes a read sends. -/
def readRequestLength (c : I2cCfg) (cs : List Byte) : Nat := (readRequest c cs).1.length + (readRequest c cs).2.length

/-- The events of a read whose sent bytes are all acknowledged at once (41_i2c.md R197, R198). -/
def i2cReadTransaction (c : I2cCfg) (d : Nat) (cs : List Byte) (n : Nat) (f : Nat → Bool) : List Event :=
  i2cStartEvents d ++ sentEvents d (readRequest c cs).1 ++
    (if (readRequest c cs).2.isEmpty then [] else i2cRstartEvents d ++ sentEvents d (readRequest c cs).2) ++
    i2cReadEvents d n f ++ i2cStopEvents d

/-- The datapath registers after `n` bytes sent and acknowledged at once (41_i2c.md R188, R189). -/
def dpAfterAcked (n : Nat) (dp : Datapath) : Datapath :=
  if n = 0 then dp else { sr := 0, bitcnt := 8, bytecnt := dp.bytecnt + BitVec.ofNat 12 n, tmocnt := 0 }

/-- ACKED after `n` more bytes acknowledged: it saturates at 4095 (41_i2c.md R208). -/
def ackedAfter (n : Nat) (acked : BitVec 12) : BitVec 12 := BitVec.ofNat 12 (min (acked.toNat + n) 4095)

/-- The events of a write transaction whose bytes are all acknowledged at once (41_i2c.md R194). -/
def transactionEvents (c : I2cCfg) (d : Nat) (bs : List Byte) : List Event :=
  i2cStartEvents d ++ sentEvents d (wireBytes c (writeAddress c) bs) ++ i2cStopEvents d

/-- The events of a bus command on I2C, its bytes all acknowledged at once (44_backends.md R345). -/
def cmdEvents (c : I2cCfg) (d : Nat) (cmd : Cmd) : List Event :=
  match cmd with
  | .w cs ds => transactionEvents c d (cs ++ ds)
  | .d n => [.delay n]

/-- How many bytes a bus command puts on the I2C bus, address bytes included. -/
def cmdBytes (c : I2cCfg) (cmd : Cmd) : Nat :=
  match cmd with
  | .w cs ds => (writeAddress c).length + (cs ++ ds).length
  | .d _ => 0

/-- How many bytes a list of bus commands puts on the I2C bus. -/
def runBytes (c : I2cCfg) (cmds : List Cmd) : Nat := (cmds.map (cmdBytes c)).sum

/-- ACKED after a list of bus commands all acknowledged: that of the last transaction (44_backends.md R345). -/
def ackedOf (c : I2cCfg) (cmds : List Cmd) (acked : BitVec 12) : BitVec 12 :=
  match cmds with
  | [] => acked
  | .w cs ds :: cmds => ackedOf c cmds (ackedAfter (cmdBytes c (.w cs ds)) 0)
  | .d _ :: cmds => ackedOf c cmds acked

/-- The datapath registers after a list of bus commands all acknowledged: each transaction clears BYTECNT first (41_i2c.md
R194). -/
def dpOf (c : I2cCfg) (cmds : List Cmd) (dp : Datapath) : Datapath :=
  match cmds with
  | [] => dp
  | .w cs ds :: cmds => dpOf c cmds (dpAfterAcked (cmdBytes c (.w cs ds)) { dp with bytecnt := 0 })
  | .d _ :: cmds => dpOf c cmds dp

/-- The I2C engine between transactions (41_i2c.md R182, R185). -/
def i2cClosed : I2cState := { bus := .idle, sda := .rel, scl := .rel }

/-- The next `2 k` answers acknowledge `k` bytes at once: SCL high, then SDA low, each time. -/
def acksAtOnce (s : State) (k : Nat) : Prop :=
  ∀ j, j < k → answerAt s (2 * j) = true ∧ answerAt s (2 * j + 1) = false

/-- The answers of a bus environment that acknowledges `k` bytes at once. -/
def ackAnswers (k : Nat) : List Bool := (List.replicate k [true, false]).flatten

/-- An ACK poll finds SCL high after `w` waits, within its bound (41_i2c.md R188). -/
def clockRises (s : State) (w : Nat) : Prop :=
  w ≤ s.cfg.i2c.tack.toNat ∧ (∀ j, j < w → answerAt s j = false) ∧ answerAt s w = true

/-- An ACK poll finds SCL low at every one of its TACK + 1 reads (41_i2c.md R188). -/
def clockStuck (s : State) : Prop := ∀ j, j ≤ s.cfg.i2c.tack.toNat → answerAt s j = false

/-- The level a target sees on a line after one more event: what OBLE drove it to, none once OBLE released it (20_memory.md
R82; 10_state.md R38, R40). -/
def levelAfter (p : Pin) (l : Option Bool) (e : Event) : Option Bool :=
  match e with
  | .set q v => if q = p then some v else l
  | .setInput q => if q = p then none else l
  | .read _ _ => l
  | .delay _ => l

/-- The events an I2C procedure may emit: on SDA and SCL only, and never `Set(p, 1)` (41_i2c.md R180). -/
def i2cEvent (e : Event) : Bool :=
  match e with
  | .set .sda v => !v
  | .set .scl v => !v
  | .setInput .sda => true
  | .setInput .scl => true
  | .read .sda _ => true
  | .read .scl _ => true
  | .delay _ => true
  | _ => false

/-- The events a TW procedure may emit: on STB, CLK and DIO only, of which only DIO is ever released or read
(40_threewire.md R140, R141). -/
def twEvent (e : Event) : Bool :=
  match e with
  | .set .stb _ => true
  | .set .clk _ => true
  | .set .dio _ => true
  | .setInput .dio => true
  | .read .dio _ => true
  | .delay _ => true
  | _ => false

/-- The shortest time an event takes (00_scope.md R12). -/
def eventDuration (e : Event) : Nat :=
  match e with
  | .delay n => n
  | _ => 0

/-- The shortest time a trace takes: the sum of its Delay arguments (40_threewire.md R163, 70_reset_and_hazards.md R453). -/
def duration (es : List Event) : Nat := (es.map eventDuration).sum

/-- What a TW target has heard so far: the levels of the strobe, the clock and a driven DIO, the bits of the frame under way,
and the frames completed. -/
structure TwEar where
  strobeLow : Bool
  clockLow : Bool
  data : Option Bool
  bits : List Bool
  frames : List (List Bool)
  deriving DecidableEq, Repr

/-- One event at a TW target: a rising clock edge in a frame with DIO driven delivers a bit; a rising strobe ends the frame
(40_threewire.md R164). -/
def twHear (t : TwEar) (e : Event) : TwEar :=
  match e with
  | .set .stb false => { t with strobeLow := true, bits := [] }
  | .set .stb true =>
    { t with strobeLow := false, bits := [], frames := if t.strobeLow then t.frames ++ [t.bits] else t.frames }
  | .set .clk v =>
    { t with
      clockLow := !v
      bits := match t.data with
        | some b => if v && t.clockLow && t.strobeLow then t.bits ++ [b] else t.bits
        | none => t.bits }
  | .set .dio b => { t with data := some b }
  | .setInput .dio => { t with data := none }
  | _ => t

/-- The frames of bits a TW target sees in a trace that begins between frames (40_threewire.md R164). -/
def twFramesSeen (es : List Event) : List (List Bool) :=
  (es.foldl twHear { strobeLow := false, clockLow := false, data := none, bits := [], frames := [] }).frames

/-- A symbol on the I2C wire. -/
inductive I2cSymbol where
  | start
  | stop
  | bit (v : Bool)
  deriving DecidableEq, Repr

/-- What an I2C target has heard so far: the levels of the lines (a released line high), the bit being clocked, the symbols. -/
structure I2cEar where
  sdaHigh : Bool
  sclHigh : Bool
  clocked : Option Bool
  symbols : List I2cSymbol
  deriving DecidableEq, Repr

/-- One event at an I2C target (41_i2c.md R214): SDA falling or rising while SCL is high is START or STOP; a bit is what SDA
holds, or what the target itself puts there, while SCL is high. -/
def i2cHear (t : I2cEar) (e : Event) : I2cEar :=
  match e with
  | .set .sda _ =>
    if t.sclHigh && t.sdaHigh then { t with sdaHigh := false, clocked := none, symbols := t.symbols ++ [.start] }
    else { t with sdaHigh := false }
  | .setInput .sda =>
    if t.sclHigh && !t.sdaHigh then { t with sdaHigh := true, clocked := none, symbols := t.symbols ++ [.stop] }
    else { t with sdaHigh := true }
  | .setInput .scl => { t with sclHigh := true, clocked := if t.sclHigh then t.clocked else some t.sdaHigh }
  | .set .scl _ =>
    { t with
      sclHigh := false
      clocked := none
      symbols := match t.clocked with
        | some v => t.symbols ++ [.bit v]
        | none => t.symbols }
  | .read .sda v => { t with clocked := if t.sclHigh then some v else t.clocked }
  | _ => t

/-- The symbols an I2C target sees in a trace that begins with the bus idle (41_i2c.md R214). -/
def i2cSymbolsSeen (es : List Event) : List I2cSymbol :=
  (es.foldl i2cHear { sdaHigh := true, sclHigh := true, clocked := none, symbols := [] }).symbols

end Sys2Proof.Machine
end

