-- ==== Sys2Proof/Safety.lean ====
section
/-! DEFINITION. The terms statements about OBLE are made in: the invariant of every reachable state, the bus state each command
asks for, what a refused command leaves, and what a command leaves alone. -/

namespace Sys2Proof.Machine

/-- What holds of the state between commands, in every run from reset. -/
structure Inv (s : State) : Prop where
  /-- Between commands SEQ is READY (10_state.md R36). -/
  ready : s.seq = .ready
  /-- No refused command stands behind the state (10_state.md R57). -/
  running : s.refused = false
  /-- An idle I2C bus has both lines released (41_i2c.md R182). -/
  i2c_idle : s.i2cs.bus = .idle → s.i2cs.sda = .rel ∧ s.i2cs.scl = .rel
  /-- A held I2C bus has SCL low (41_i2c.md R182). -/
  i2c_held : s.i2cs.bus = .held → s.i2cs.scl = .low
  /-- With no frame open the data line is an input, at a byte boundary (70_reset_and_hazards.md R451, 40_threewire.md R143). -/
  tw_idle : s.tws.frame = .idle → s.tws.dir = .input ∧ s.tws.bitcnt = 0
  /-- DIO is released while the direction is IN (40_threewire.md R140). -/
  tw_released : s.tws.dir = .input → s.tws.dio = .input
  /-- The bit order, the delays and the poll bound are the parameters' (10_state.md R43, R44; 20_memory.md R88). -/
  order_fixed : s.cfg.i2c.lsbf = s.par.i2c.lsbf ∧ s.cfg.i2c.aord = s.par.i2c.aord
  delays_fixed : s.cfg.i2c.td = s.par.i2c.td ∧ s.cfg.i2c.tack = s.par.i2c.tack ∧ s.cfg.td3 = s.par.td3w
  /-- BITCNT is at most 9 (10_state.md R33). -/
  bitcnt_legal : s.dp.bitcnt.toNat ≤ 9
  /-- TMOCNT is at most TACK (10_state.md R35). -/
  tmocnt_legal : s.dp.tmocnt.toNat ≤ s.cfg.i2c.tack.toNat
  /-- RXQ holds at most 4095 bytes, as long as the version string does (10_state.md R56, 42_controller.md R257). -/
  rxq_bounded : s.par.version.length ≤ 4095 → s.rxq.length ≤ 4095
  /-- LAYOUT is the layout of DESC (10_state.md R53). -/
  layout_selected : s.ctlr.layout = layoutOf s.par s.ctlr.desc
  /-- ACTIVE is the backend of DESC, or DUMMY after a failed probe (10_state.md R53). -/
  active_selected : s.ctlr.active = backendOf s.par s.ctlr.desc ∨ s.ctlr.active = .dummy
  /-- TYPE is a valid type, or DESC is the default descriptor (10_state.md R46). -/
  type_legal : (descType s.ctlr.desc).toNat < s.par.numTypes ∨ s.ctlr.desc = s.par.defaultDesc
  /-- BRIGHT is a legal level, where every backend has the eight levels of the rules (10_state.md R49). -/
  bright_legal : (∀ b, levels s.par b = 8) → s.par.brightReset.toNat < 8 → s.ctlr.bright.toNat < 8

/-- The bus state a command asks for (60_exceptions.md R404): without it, it finishes SEQ. -/
def busReady (i : Instr) (s : State) : Bool :=
  match i with
  | .i2cReadCmdData _ _ _ => i2cIdle s
  | .i2cReadData _ _ => i2cIdle s
  | .i2cReadByte _ => i2cIdle s
  | .i2cWriteCmdData _ _ _ => i2cIdle s
  | .i2cWriteData _ _ => i2cIdle s
  | .i2cWriteByte _ _ => i2cIdle s
  | .i2cStart _ => true
  | .i2cStop _ => !i2cIdle s
  | .i2cTxBit _ _ => !i2cIdle s
  | .i2cRxBit _ => !i2cIdle s
  | .i2cAckPoll _ => !i2cIdle s
  | .i2cTxByte _ _ => !i2cIdle s
  | .i2cRxByte _ _ => !i2cIdle s
  | .i2cAddr _ _ _ => !i2cIdle s
  | .twReadCmdData _ _ _ => twIdle s
  | .twReadData _ _ => twIdle s
  | .twReadByte _ => twIdle s
  | .twWriteCmdData _ _ _ => twIdle s
  | .twWriteData _ _ => twIdle s
  | .twWriteByte _ _ => twIdle s
  | .twBegin _ => twIdle s
  | .twEnd _ => !twIdle s
  | .twTxBit _ _ => !twIdle s && twTurns .output s
  | .twRxBit _ => !twIdle s && twTurns .input s
  | .twTxByte _ _ => !twIdle s && twBoundary s
  | .twRxByte _ => !twIdle s && twBoundary s
  | .dpTranspose8 _ => true
  | .dpScatter _ => true
  | .dpXfDirect _ => true
  | .dpXfTransposed _ => true
  | .dpXfNarrow5 _ => true
  | .dpXfMuxext _ => true
  | .dpCharToMask _ _ => true
  | .dpLedClock _ _ _ _ _ => true
  | .ctlInit _ => i2cIdle s && twIdle s
  | .ctlGetBrightness _ => i2cIdle s && twIdle s
  | .ctlSetBrightness _ _ => i2cIdle s && twIdle s
  | .ctlGetPower _ => i2cIdle s && twIdle s
  | .ctlSetPower _ _ => i2cIdle s && twIdle s
  | .ctlGetDescriptor _ => i2cIdle s && twIdle s
  | .ctlSetDescriptor _ => i2cIdle s && twIdle s
  | .ctlSetIcon _ _ _ => i2cIdle s && twIdle s
  | .ctlReadRaw _ _ => i2cIdle s && twIdle s
  | .ctlWriteRaw _ _ => i2cIdle s && twIdle s
  | .ctlWriteDisplayFrame _ _ => i2cIdle s && twIdle s
  | .ctlSetOrder _ => i2cIdle s && twIdle s
  | .ctlSetIndicatorMask _ => i2cIdle s && twIdle s
  | .ctlGetMode _ => i2cIdle s && twIdle s
  | .ctlSetMode _ _ => i2cIdle s && twIdle s
  | .ctlReloadDefaults _ => i2cIdle s && twIdle s
  | .oledCmd _ _ => i2cIdle s && twIdle s
  | .oledData _ _ => i2cIdle s && twIdle s
  | .oledWindow _ _ => i2cIdle s && twIdle s
  | .oledClear _ => i2cIdle s && twIdle s
  | .miscGetVersion _ => i2cIdle s && twIdle s

/-- What a command that is turned away leaves: STATUS with the code, TMO and ACKED cleared, RXQ empty, and nothing else
(60_exceptions.md R405). -/
def rejected (rc : RC) (s : State) : State :=
  { s with status := { rc := rc, tmo := false, acked := 0 }, rxq := [], seq := .ready }

/-- What a command leaves that only answers: STATUS with the code, TMO and ACKED cleared, and its result bytes (60_exceptions.md
R405). -/
def answered (rc : RC) (bytes : List Byte) (s : State) : State :=
  { s with status := { rc := rc, tmo := false, acked := 0 }, rxq := bytes, seq := .ready }

/-- What a command leaves that used a bus: STATUS as given, and its result bytes (60_exceptions.md R405). -/
def concluded (st : Status) (bytes : List Byte) (s : State) : State := { s with status := st, rxq := bytes, seq := .ready }

/-- What a command leaves whose bus commands went out over I2C with every byte acknowledged at once: OK, ACKED that of the last
transaction, the transactions and settling waits in order, and nothing else (44_backends.md R345). -/
def acknowledgedRun (cmds : List Cmd) (bytes : List Byte) (s : State) : State :=
  concluded { rc := .ok, tmo := false, acked := ackedOf s.cfg.i2c cmds 0 } bytes
    (withEvents (cmds.flatMap (cmdEvents s.cfg.i2c (dI2c s)))
      (afterAnswers (2 * runBytes s.cfg.i2c cmds) { s with dp := dpOf s.cfg.i2c cmds s.dp }))

/-- How many bytes a TW capability operation transmits and receives; none for a read of no bytes, which opens no frame, and for
every other command (40_threewire.md R163). -/
def twCounts (i : Instr) : Option (Nat × Nat) :=
  match i with
  | .twReadCmdData m n _ => if n = 0 then none else some (m.toNat, n.toNat)
  | .twReadData n _ => if n = 0 then none else some (0, n.toNat)
  | .twReadByte _ => some (0, 1)
  | .twWriteCmdData m n _ => some (m.toNat + n.toNat, 0)
  | .twWriteData n _ => some (n.toNat, 0)
  | .twWriteByte _ _ => some (1, 0)
  | _ => none

/-- The bytes a TW capability operation transmits in its frame (40_threewire.md R149 to R154). -/
def twSentBytes (i : Instr) : List Byte :=
  match i with
  | .twWriteByte b _ => [b]
  | i => i.txp

/-- The bytes an I2C write sends after its address, where its payload is as long as its word says; none for every other command
(41_i2c.md R194 to R196). -/
def i2cWriteBytes (i : Instr) : Option (List Byte) :=
  match i with
  | .i2cWriteCmdData m n txp => if txp.length = m.toNat + n.toNat then some txp else none
  | .i2cWriteData n txp => if txp.length = n.toNat then some txp else none
  | .i2cWriteByte b txp => if txp.length = 0 then some [b] else none
  | _ => none

/-- The command bytes an I2C read sends and how many bytes it reads, where its payload is as long as its word says; none for every
other command (41_i2c.md R197 to R199). -/
def i2cReadOperands (i : Instr) : Option (List Byte × Nat) :=
  match i with
  | .i2cReadCmdData m n txp => if txp.length = m.toNat then some (txp, n.toNat) else none
  | .i2cReadData n txp => if txp.length = 0 then some ([], n.toNat) else none
  | .i2cReadByte txp => if txp.length = 0 then some ([], 1) else none
  | _ => none

/-- One byte to the LCD in the default wiring, the high nibble and then the low one, each with the enable strobe up and down, then the
settling wait: `bl` is the backlight bit and `rs` the register bit of the expander byte (44_backends.md R351 to R353). -/
def lcdByteCmds (p : Params) (bl rs b : Byte) : List Cmd :=
  [.w [] [(b &&& 0xF0) ||| bl ||| rs ||| 0x04, (b &&& 0xF0) ||| bl ||| rs],
    .w [] [(b <<< 4) ||| bl ||| rs ||| 0x04, (b <<< 4) ||| bl ||| rs], .d p.lcdTCmd]

/-- The brightness and power command of each backend, byte by byte (44_backends.md R349, R356, R366, R367). -/
def brightnessCmds (p : Params) (b : Backend) (l : Byte) (on : Bool) : List Cmd :=
  match b with
  | .led => [.w [(if on then 0x88 else 0x80) ||| (l &&& 0x07)] []]
  | .lcd =>
    .w [] [if on then 0x08 else 0x00] :: lcdByteCmds p (if on then 0x08 else 0x00) 0 (if on then 0x0C else 0x08)
  | .oledA => [.w [0x00] [0x81, oledContrast p l, if on then 0xAF else 0xAE]]
  | .oledB => [.w [0x00] [0x81, oledContrast p l, if on then 0xAF else 0xAE]]
  | .dummy => []

/-- The bring-up of each backend on I2C, byte by byte (44_backends.md R346, R354, R358, R359, R367). -/
def bringUpCmds (p : Params) (b : Backend) (desc : BitVec 32) (bright : Byte) (on : Bool) : List Cmd :=
  let bl : Byte := if on then 0x08 else 0x00
  let nibble (n : Byte) : Cmd := .w [] [n ||| bl ||| 0x04, n ||| bl]
  let pick (f : Flag) (yes no : Byte) : Byte := if flagOf p desc f then yes else no
  match b with
  | .led => ledI2cInit p
  | .lcd =>
    [.d p.lcdTPwr, nibble 0x30, .d p.lcdTInit1, nibble 0x30, .d p.lcdTInit2, nibble 0x30, .d p.lcdTInit2, nibble 0x20,
      .d p.lcdTInit2] ++
      lcdByteCmds p bl 0 0x28 ++ lcdByteCmds p bl 0 (if on then 0x0C else 0x08) ++ lcdByteCmds p bl 0 0x01 ++
      [.d p.lcdTClr] ++ lcdByteCmds p bl 0 0x06
  | .oledA =>
    [.w [0x00]
      [0xAE, 0xD5, 0x80, 0xA8, byteOfNat (8 * p.oledBanks - 1), 0xD3, 0x00, 0x40,
        0x8D, pick .extSupply 0x10 0x14, 0x20, 0x00, pick .rotated 0xA0 0xA1, pick .rotated 0xC0 0xC8,
        0xDA, pick .altComConfig 0x12 0x02, 0x81, oledContrast p bright, 0xD9, pick .extSupply 0x22 0xF1, 0xDB, 0x40,
        0xA4, pick .inverted 0xA7 0xA6, 0x21, 0x00, byteOfNat (p.oledCols - 1), 0x22, 0x00, byteOfNat (p.oledBanks - 1)],
      .w [0x00] [0x21, 0x00, byteOfNat (p.oledCols - 1), 0x22, 0x00, byteOfNat (p.oledBanks - 1)],
      .w [0x40] (List.replicate (p.oledCols * p.oledBanks) 0)]
  | .oledB =>
    .w [0x00]
      [0xAE, 0xD5, 0x80, 0xA8, byteOfNat (8 * p.oledBanks - 1), 0xD3, 0x00, 0x40,
        0xAD, 0x8B, 0x20, 0x00, pick .rotated 0xA0 0xA1, pick .rotated 0xC0 0xC8,
        0xDA, pick .altComConfig 0x12 0x02, 0x81, oledContrast p bright, 0xD9, pick .extSupply 0x22 0xF1, 0xDB, 0x40,
        0xA4, pick .inverted 0xA7 0xA6] ::
      (List.range p.oledBanks).flatMap (fun page =>
        [.w [0x00] [0xB0 ||| byteOfNat page, 0x00, 0x10], .w [0x40] (List.replicate p.oledRamCols 0)])
  | .dummy => []

/-- The parameters that are a table of bus commands have no entry, and the LCD is wired as by default, so the commands are those of
the rules (00_scope.md R8; 44_backends.md R351). -/
structure DefaultCommands (p : Params) : Prop where
  brightness : p.brightCmd = []
  oled : p.oledInit = []
  wiring : p.lcdMap = defaultLcdMap
  reads : p.readCmd = []

/-- The physical frame of a raw one: ICON merged into the indicator word, then the layout selected by LAYOUT under ORDER
(43_layout.md R301, R307). -/
def physicalFrame (s : State) (raw : Frame) : Frame :=
  let l : Frame := { raw with a0 := raw.a0 ||| s.ctlr.icon }
  match s.ctlr.layout with
  | .direct => xfDirect l s.ctlr.order
  | .transposed => xfTransposed l s.ctlr.order
  | .narrow5 => narrowOn s l s.ctlr.order
  | .muxext => xfMuxext l s.ctlr.order

/-- Both engines are idle, as the controller's commands ask (42_controller.md R261). -/
def bothIdle (s : State) : Prop := s.i2cs.bus = .idle ∧ s.tws.frame = .idle

/-- I2CCFG with the address of the descriptor applied, where its backend is on I2C and the address is not 0 (44_backends.md R344). -/
def addressed (p : Params) (desc : BitVec 32) (cfg : EngineCfg) : EngineCfg :=
  if busOf p (backendOf p desc) = .i2c ∧ descAddr desc ≠ 0 then
    { cfg with i2c := { cfg.i2c with amode := .a7, addr := ((descAddr desc) &&& 0x7F).setWidth 10 } }
  else cfg

/-- What INIT does from `s`, whatever the target answers: the address of the descriptor is applied, ACTIVE is the descriptor's backend
or, on I2C after a failed probe, DUMMY; every other register and WBUF keep their values (42_controller.md R241). -/
structure Initialised (s t : State) : Prop where
  code : t.status.rc = .ok ∨ t.status.rc = .ackf
  rxq : t.rxq = []
  cfg : t.cfg = addressed s.par s.ctlr.desc s.cfg
  registers : t.ctlr = { s.ctlr with active := t.ctlr.active }
  active : t.ctlr.active = backendOf s.par s.ctlr.desc ∨
    (busOf s.par (backendOf s.par s.ctlr.desc) = .i2c ∧ t.ctlr.active = .dummy)
  wbuf : t.wbuf = s.wbuf
  par : t.par = s.par
  idle : bothIdle t

/-- What every bus command of the controller leaves, whatever the target answers: OK or ACKF, the configuration and the parameters as
before, both engines idle (42_controller.md R260). -/
structure BusEnded (s t : State) : Prop where
  code : t.status.rc = .ok ∨ t.status.rc = .ackf
  cfg : t.cfg = s.cfg
  par : t.par = s.par
  idle : bothIdle t

/-- UNIT of a command (30_encoding.md R112, R114 to R120). -/
def unitOf (i : Instr) : Nat :=
  match i with
  | .i2cReadCmdData _ _ _ => 1
  | .i2cReadData _ _ => 1
  | .i2cReadByte _ => 1
  | .i2cWriteCmdData _ _ _ => 1
  | .i2cWriteData _ _ => 1
  | .i2cWriteByte _ _ => 1
  | .i2cStart _ => 1
  | .i2cStop _ => 1
  | .i2cTxBit _ _ => 1
  | .i2cRxBit _ => 1
  | .i2cAckPoll _ => 1
  | .i2cTxByte _ _ => 1
  | .i2cRxByte _ _ => 1
  | .i2cAddr _ _ _ => 1
  | .twReadCmdData _ _ _ => 2
  | .twReadData _ _ => 2
  | .twReadByte _ => 2
  | .twWriteCmdData _ _ _ => 2
  | .twWriteData _ _ => 2
  | .twWriteByte _ _ => 2
  | .twBegin _ => 2
  | .twEnd _ => 2
  | .twTxBit _ _ => 2
  | .twRxBit _ => 2
  | .twTxByte _ _ => 2
  | .twRxByte _ => 2
  | .ctlInit _ => 3
  | .ctlGetBrightness _ => 3
  | .ctlSetBrightness _ _ => 3
  | .ctlGetPower _ => 3
  | .ctlSetPower _ _ => 3
  | .ctlGetDescriptor _ => 3
  | .ctlSetDescriptor _ => 3
  | .ctlSetIcon _ _ _ => 3
  | .ctlReadRaw _ _ => 3
  | .ctlWriteRaw _ _ => 3
  | .ctlWriteDisplayFrame _ _ => 3
  | .ctlSetOrder _ => 3
  | .ctlSetIndicatorMask _ => 3
  | .ctlGetMode _ => 3
  | .ctlSetMode _ _ => 3
  | .ctlReloadDefaults _ => 3
  | .dpTranspose8 _ => 4
  | .dpScatter _ => 4
  | .dpXfDirect _ => 4
  | .dpXfTransposed _ => 4
  | .dpXfNarrow5 _ => 4
  | .dpXfMuxext _ => 4
  | .dpCharToMask _ _ => 4
  | .dpLedClock _ _ _ _ _ => 4
  | .oledCmd _ _ => 5
  | .oledData _ _ => 5
  | .oledWindow _ _ => 5
  | .oledClear _ => 5
  | .miscGetVersion _ => 6

/-- The events a command may emit: those of its own engine for UNIT 1 and UNIT 2, none for UNIT 4 and UNIT 6, those of either
engine for the controller (41_i2c.md R180, 40_threewire.md R141, 43_layout.md section 5, 42_controller.md R257). -/
def mayEmit (i : Instr) (e : Event) : Bool :=
  match unitOf i with
  | 1 => i2cEvent e
  | 2 => twEvent e
  | 3 => i2cEvent e || twEvent e
  | 5 => i2cEvent e || twEvent e
  | _ => false

/-- Commands run one after another, each from the state the one before it left (20_memory.md R100); none where one of them did
not finish. -/
def runAll (is : List Instr) (s : State) : Option State :=
  match is with
  | [] => some s
  | i :: is =>
    match exec i s with
    | .next t => runAll is t
    | .fault _ => none
    | .refused _ => none

/-- The codes of a command that is turned away (60_exceptions.md R405). -/
def turnedAway (rc : RC) : Bool :=
  match rc with
  | .ok => false
  | .ackf => false
  | _ => true

/-- The configuration and controller registers, WBUF, the parameters and the host's inputs are as before: everything but the
datapath, the two bus engines, SEQ, STATUS, RXQ, the trace and the answers taken. -/
structure KeepsRegisters (s t : State) : Prop where
  cfg : t.cfg = s.cfg
  ctlr : t.ctlr = s.ctlr
  wbuf : t.wbuf = s.wbuf
  refused : t.refused = s.refused
  par : t.par = s.par
  inbox : t.env.inbox = s.env.inbox

/-- The I2C engine and the TW engine with their lines, and the datapath registers, are as before, and the environment was not
touched: no event, no answer taken. -/
structure KeepsBuses (s t : State) : Prop where
  dp : t.dp = s.dp
  i2cs : t.i2cs = s.i2cs
  tws : t.tws = s.tws
  env : t.env = s.env

end Sys2Proof.Machine
end

