-- ==== Sys2Proof/Certificates/Slice0/Obligations.lean ====
section
/-! DEFINITION. The statements about the model, for the provers. Each docstring names the rules it formalises. A statement of
an instruction's result is an equation of the whole next state, so it says at once that the instruction completes, what it
writes and that it leaves everything else as it was; the events it emits stand in the order of the trace. -/

section
open Sys2Proof Sys2Proof.Machine

/-! The encoding (30_encoding.md). -/

/-- Decoding an encoded command gives it back, for every row and every operand (R112, R113, R127). -/
def Obligations.DecodeOfEncode : Prop := ∀ i : Instr, decode (encode i) = .ok i

/-- Every legal command word is the encoder's word of the command it stands for: each command has one word, and no bit of a
legal word is dropped (R121, R122). -/
def Obligations.EncodeOfDecode : Prop := ∀ (c : Command) (i : Instr), decode c = .ok i → encode i = c

/-- A decoder of a byte stream takes exactly the payload bytes the word fixes and leaves the rest (R111). -/
def Obligations.PayloadIsFixedByTheWord : Prop :=
  ∀ (i : Instr) (rest : List Byte), i.WellFormed → decodeStream (encode i).cw (i.txp ++ rest) = .ok (i, rest)

/-- A word selects the row of the opcode table that its mask and match test finds, and no other; a word that no row matches is
illegal (R121). -/
def Obligations.MaskAndMatchSelectTheRow : Prop :=
  (∀ (c : Command) (r : OpcodeRow), r ∈ opcodeRows →
    (r.covers c.cw = true ↔ ∃ i, decode c = .ok i ∧ i.mnemonic = r.mnemonic)) ∧
  (∀ c : Command, (∀ r, r ∈ opcodeRows → r.covers c.cw = false) ↔ ∃ e, decode c = .error e)

/-- Five words written out in R127, with their payloads. -/
def Obligations.EncodingExamples : Prop :=
  decode ⟨0x13001002, [0x00, 0xAE, 0xAF]⟩ = .ok (.i2cWriteCmdData 1 2 [0x00, 0xAE, 0xAF]) ∧
  decode ⟨0x2500008F, []⟩ = .ok (.twWriteByte 0x8F []) ∧
  decode ⟨0x37004001, []⟩ = .ok (.ctlSetIcon iconColon true []) ∧
  decode ⟨0x47029005, []⟩ = .ok (.dpLedClock 0 true 9 5 []) ∧
  decode ⟨0x1F000003, []⟩ = .ok (.i2cAddr true true [])

/-! The machine: steps, reset, the checks that come first, and the invariant. -/

/-- A command at the port of a ready machine, whose word decodes, is run: the step is that command's meaning on the state with
the input taken from the port (20_memory.md R100). -/
def Obligations.StepRunsTheDecodedCommand : Prop :=
  ∀ (s : State) (c : Command) (rest : List HostInput) (i : Instr),
    s.seq = .ready → s.refused = false → s.env.inbox = .command c :: rest → decode c = .ok i →
    step s = exec i { s with env := { s.env with inbox := rest } }

/-- A word of no row is ILLEGAL: nothing but STATUS and RXQ changes, and no event is emitted, whatever the payload and the bus
state; the three causes of R122 are told apart by name (60_exceptions.md R407). -/
def Obligations.IllegalWordsChangeNothing : Prop :=
  (∀ (s : State) (c : Command) (rest : List HostInput),
    s.seq = .ready → s.refused = false → s.env.inbox = .command c :: rest →
    (∀ r, r ∈ opcodeRows → r.covers c.cw = false) →
    step s = .next (rejected .illegal { s with env := { s.env with inbox := rest } })) ∧
  (∀ c : Command, decode c = .error .reservedUnit ↔ c.cw.toNat / 2 ^ 28 = 0 ∨ 7 ≤ c.cw.toNat / 2 ^ 28) ∧
  (∀ c : Command, decode c = .error .mustBeZero ↔
    (∃ r, r ∈ opcodeRows ∧ r.pattern.toNat / 2 ^ 24 = c.cw.toNat / 2 ^ 24) ∧
      ∀ r, r ∈ opcodeRows → r.covers c.cw = false)

/-- With nothing at the port a step changes nothing (60_exceptions.md R419). The host's reset, at a ready machine, writes every
register its reset value, keeps the parameters and emits no event (70_reset_and_hazards.md R440, R442; that it keeps the trace so
far, the answers to come and the inputs to come is the model's reading, log entry 17). -/
def Obligations.IdleAndResetSteps : Prop :=
  (∀ s : State, s.refused = false → s.env.inbox = [] → step s = .next s) ∧
  (∀ (s : State) (rest : List HostInput), s.seq = .ready → s.refused = false → s.env.inbox = .reset :: rest →
    step s = .next { State.resetWith s.par with env := { s.env with inbox := rest } })

/-- The reset values of every register, for every parameter set (10_state.md R60, 70_reset_and_hazards.md R441). -/
def Obligations.ResetValues : Prop :=
  ∀ p : Params,
    (State.resetWith p).dp = { sr := 0, bitcnt := 0, bytecnt := 0, tmocnt := 0 } ∧
    (State.resetWith p).seq = .ready ∧
    (State.resetWith p).i2cs = { bus := .idle, sda := .rel, scl := .rel } ∧
    (State.resetWith p).tws =
      { frame := .idle, dir := .input, bitcnt := 0, stb := .input, clk := .input, dio := .input } ∧
    statusWord (State.resetWith p).status = 0 ∧
    (State.resetWith p).cfg = { i2c := p.i2c, td3 := p.td3w } ∧
    (State.resetWith p).ctlr =
      { desc := p.defaultDesc, order := p.defaultOrder, bright := p.brightReset, power := p.powerReset, icon := 0,
        mode := 0, active := (p.select.lookup (descKind p.defaultDesc)).getD .dummy,
        layout := layoutOf p p.defaultDesc } ∧
    (∀ k, wbufRead (State.resetWith p) k = 0) ∧
    (State.resetWith p).rxq = [] ∧ (State.resetWith p).refused = false ∧ (State.resetWith p).trace = [] ∧
    (State.resetWith p).par = p

/-- SEQ before anything else: a command that does not fit the bus state, a direction switch in mid-byte included, changes nothing but
STATUS and RXQ, whatever its operands and payload (60_exceptions.md R404, R408; 41_i2c.md R211; 40_threewire.md R162; 42_controller.md R261). -/
def Obligations.SequencingIsCheckedFirst : Prop :=
  ∀ (i : Instr) (s : State), busReady i s = false → exec i s = .next (rejected .seq s)

/-- LENGTH comes next: in the right bus state, a payload that is not as long as the word says is refused before any effect
(30_encoding.md R123, 60_exceptions.md R408). -/
def Obligations.PayloadLengthIsCheckedSecond : Prop :=
  ∀ (i : Instr) (s : State), busReady i s = true → ¬ i.WellFormed → exec i s = .next (rejected .length s)

/-- A command that finishes with ILLEGAL, SEQ, LENGTH, REJECT or UNSUPPORTED has emitted no event and no byte, has taken no
answer, and has changed no register but STATUS (60_exceptions.md R405). -/
def Obligations.TurnedAwayCommandsChangeNothing : Prop :=
  ∀ (i : Instr) (s t : State), exec i s = .next t → turnedAway t.status.rc = true → t = rejected t.status.rc s

/-- No command traps, hangs or leaves the engine busy: every command but one finishes, from every state, with SEQ = READY, RC
not ILLEGAL, and the parameters, the host's inputs and the refusal mark as before. The one, CTL.WRITE_DISPLAY_FRAME, finishes too
unless the active backend is LCD or OLED (00_scope.md R3, R14; 60_exceptions.md R410, R413). -/
def Obligations.EveryCommandFinishes : Prop :=
  ∀ (i : Instr) (s : State),
    (i.mnemonic = "CTL.WRITE_DISPLAY_FRAME" → s.ctlr.active = .led ∨ s.ctlr.active = .dummy) →
    ∃ t, exec i s = .next t ∧ t.seq = .ready ∧ t.status.rc ≠ .illegal ∧ t.par = s.par ∧ t.env.inbox = s.env.inbox ∧
      t.refused = s.refused

/-- The state right after reset satisfies the invariant, for every parameter set. -/
def Obligations.ResetSatisfiesTheInvariant : Prop := ∀ p : Params, Inv (State.resetWith p)

/-- Every step, from every state that satisfies it, keeps the invariant: an idle I2C bus is released and a held one has SCL low
(41_i2c.md R182), DIO is released and the direction IN between frames (70_reset_and_hazards.md R451), the counters stay in their
legal ranges (10_state.md R33, R35, R56), LAYOUT and ACTIVE are those of DESC (R53), TYPE and BRIGHT stay legal (R46, R49). -/
def Obligations.EveryStepKeepsTheInvariant : Prop := ∀ s t : State, Inv s → step s = .next t → Inv t

/-- Which commands may change each register: all others leave it as it was (10_state.md R43 to R55). -/
def Obligations.OnlyTheListedCommandsWriteEachRegister : Prop :=
  ∀ (i : Instr) (s t : State), exec i s = .next t →
    (t.ctlr.bright ≠ s.ctlr.bright → i.mnemonic ∈ ["CTL.SET_BRIGHTNESS", "CTL.RELOAD_DEFAULTS"]) ∧
    (t.ctlr.power ≠ s.ctlr.power → i.mnemonic ∈ ["CTL.SET_POWER", "CTL.RELOAD_DEFAULTS"]) ∧
    (t.ctlr.mode ≠ s.ctlr.mode → i.mnemonic ∈ ["CTL.SET_MODE", "CTL.RELOAD_DEFAULTS"]) ∧
    (t.ctlr.order ≠ s.ctlr.order → i.mnemonic ∈ ["CTL.SET_ORDER", "CTL.RELOAD_DEFAULTS"]) ∧
    (t.ctlr.icon ≠ s.ctlr.icon → i.mnemonic ∈ ["CTL.SET_ICON", "CTL.SET_INDICATOR_MASK", "CTL.RELOAD_DEFAULTS"]) ∧
    (t.ctlr.desc ≠ s.ctlr.desc ∨ t.ctlr.layout ≠ s.ctlr.layout →
      i.mnemonic ∈ ["CTL.SET_DESCRIPTOR", "CTL.RELOAD_DEFAULTS"]) ∧
    (t.ctlr.active ≠ s.ctlr.active ∨ t.cfg.i2c.addr ≠ s.cfg.i2c.addr ∨ t.cfg.i2c.amode ≠ s.cfg.i2c.amode →
      i.mnemonic ∈ ["CTL.INIT", "CTL.SET_DESCRIPTOR", "CTL.RELOAD_DEFAULTS"]) ∧
    (t.cfg.i2c.lsbf ≠ s.cfg.i2c.lsbf ∨ t.cfg.i2c.aord ≠ s.cfg.i2c.aord ∨ t.cfg.i2c.td ≠ s.cfg.i2c.td ∨
      t.cfg.i2c.tack ≠ s.cfg.i2c.tack → i.mnemonic = "CTL.RELOAD_DEFAULTS") ∧
    t.cfg.td3 = s.cfg.td3 ∧
    (t.wbuf ≠ s.wbuf → i.mnemonic ∈ ["CTL.WRITE_RAW", "CTL.WRITE_DISPLAY_FRAME"]) ∧
    (t.i2cs ≠ s.i2cs → unitOf i = 1 ∨ unitOf i = 3 ∨ unitOf i = 5) ∧
    (t.tws ≠ s.tws → unitOf i = 2 ∨ unitOf i = 3 ∨ unitOf i = 5) ∧
    (t.dp ≠ s.dp → unitOf i ≠ 4 ∧ unitOf i ≠ 6)

/-- A command only appends to the trace, only events its unit may emit, and never drives an I2C line high; and after them each
line is driven as its drive register says: the level a target sees on it is the one the events leave (20_memory.md R82, R99;
10_state.md R38, R40; 41_i2c.md R180; 40_threewire.md R141). -/
def Obligations.EveryEventUpdatesItsLine : Prop :=
  ∀ (i : Instr) (s t : State), exec i s = .next t →
    ∃ es, t.trace = s.trace ++ es ∧ (∀ e, e ∈ es → mayEmit i e = true) ∧
      ∀ p, wireLevel t p = es.foldl (levelAfter p) (wireLevel s p)

/-- Power always wins: while POWER = 0, no sequence of commands without CTL.SET_POWER and CTL.RELOAD_DEFAULTS, however they end,
sets it. With POWER = 0, and whatever the target answers, what SET_BRIGHTNESS, SET_POWER 0, INIT and SET_DESCRIPTOR send to set
the brightness is the brightness command with enable = 0, INIT's after the bring-up with the display off; RELOAD_DEFAULTS with
POWER_RESET = false is such an INIT; and the default brightness command of every backend with enable = 0 has it so on the bus: bit 3
of the LED byte is 0 at every level, the backlight and display bits of the LCD are 0, the OLED is told display off (42_controller.md
R258; 44_backends.md R346, R349, R354, R356, R358, R366; 70_reset_and_hazards.md R455). That an INIT over TW starts BYTECNT from 0
(DEDUCED, log entry 12), that a level above 7 gives the LED byte its low three bits (DEDUCED, log entry 13), and the bring-up bytes of
an OLED geometry that does not fit a byte or is 0 (DEDUCED and DESIGN CHOICE, log entry 14), are the model's. -/
def Obligations.PowerAlwaysWins : Prop :=
  (∀ (is : List Instr) (s t : State), s.ctlr.power = false →
    (∀ i, i ∈ is → i.mnemonic ≠ "CTL.SET_POWER" ∧ i.mnemonic ≠ "CTL.RELOAD_DEFAULTS") → runAll is s = some t →
    t.ctlr.power = false) ∧
  (∀ s : State, bothIdle s → s.ctlr.power = false →
    (∀ l : Byte, l.toNat < levels s.par s.ctlr.active →
      exec (.ctlSetBrightness l []) s =
        finishAck (run (brightCmd s.par false s.ctlr.active l false) (begin { s with ctlr := { s.ctlr with bright := l } }))) ∧
    (∀ u : State, u = startByteCount (probeTarget (applyAddress (setActive (backendOf s.par s.ctlr.desc) (begin s)))) →
      (u.ctlr.active = .led → busOf s.par .led = .tw →
        exec (.ctlInit []) s =
          finishAck (run (.w [s.par.twModeCmd] [] :: brightCmd s.par false .led s.ctlr.bright false) (ledLines u))) ∧
      (u.ctlr.active ≠ .led ∨ busOf s.par .led = .i2c → s.par.oledInit = [] → s.par.lcdMap = defaultLcdMap →
        exec (.ctlInit []) s =
          finishAck (run (bringUpCmds s.par u.ctlr.active s.ctlr.desc s.ctlr.bright false ++
            brightCmd s.par false u.ctlr.active s.ctlr.bright false) u))) ∧
    (∀ ty a f k : Byte, ty.toNat < s.par.numTypes →
      ∃ r, exec (.ctlSetDescriptor [ty, a, f, k]) s = exec (.ctlInit []) r ∧ bothIdle r ∧ r.ctlr.power = false)) ∧
  (∀ s : State, bothIdle s →
    exec (.ctlSetPower false []) s =
      finishAck (run (brightCmd s.par false s.ctlr.active s.ctlr.bright false)
        (begin { s with ctlr := { s.ctlr with power := false } })) ∧
    (s.par.powerReset = false →
      ∃ r, exec (.ctlReloadDefaults []) s = exec (.ctlInit []) r ∧ bothIdle r ∧ r.ctlr.power = false)) ∧
  (∀ (p : Params) (l : Byte),
    (p.brightCmd = [] → ∀ b, brightCmd p false b l false = brightCmdDefault p false b l false) ∧
    brightCmdDefault p false .led l false = [.w [0x80 ||| (l &&& 0x07)] []] ∧ (0x80 ||| (l &&& 0x07)).getLsbD 3 = false ∧
    (p.lcdMap = defaultLcdMap →
      brightCmdDefault p false .lcd l false = [.w [] [0x00], .w [] [0x04, 0x00], .w [] [0x84, 0x80], .d p.lcdTCmd]) ∧
    brightCmdDefault p false .oledA l false = [.w [0x00] [0x81, oledContrast p l, 0xAE]] ∧
    brightCmdDefault p false .oledB l false = [.w [0x00] [0x81, oledContrast p l, 0xAE]] ∧
    brightCmdDefault p false .dummy l false = [])

/-- INIT is idempotent: two states equal in every register other than STATUS, under the same parameters and bus answers, end in
one state with one trace; and a second INIT, with the same answers, leaves the state the first left (42_controller.md R259). -/
def Obligations.InitIsIdempotent : Prop :=
  (∀ (s : State) (st : Status), exec (.ctlInit []) { s with status := st } = exec (.ctlInit []) s) ∧
  (∀ s t : State, exec (.ctlInit []) s = .next t → exec (.ctlInit []) { t with env := s.env } = .next t)


/-! The 3-wire engine (40_threewire.md). -/

/-- The TW writes send their bytes in one strobe frame, each byte LSB first, and leave the lines idle; RC = OK whatever the target
does, TMO and ACKED are 0, and nothing else changes (R87, R142 to R146, R152 to R154, R161). -/
def Obligations.TwWritesSendOneFrame : Prop :=
  ∀ s : State, s.tws.frame = .idle →
    (∀ (m n : Len) (txp : List Byte), txp.length = m.toNat + n.toNat →
      exec (.twWriteCmdData m n txp) s = .next (answered .ok []
        (withEvents (twFrameEvents (d3 s) txp)
          { s with dp := dpAfterSent txp.length { s.dp with bytecnt := 0 }, tws := twClosed txp.length s.tws }))) ∧
    (∀ (n : Len) (txp : List Byte), txp.length = n.toNat →
      exec (.twWriteData n txp) s = .next (answered .ok []
        (withEvents (twFrameEvents (d3 s) txp)
          { s with dp := dpAfterSent txp.length { s.dp with bytecnt := 0 }, tws := twClosed txp.length s.tws }))) ∧
    (∀ b : Byte,
      exec (.twWriteByte b []) s = .next (answered .ok []
        (withEvents (twFrameEvents (d3 s) [b])
          { s with dp := dpAfterSent 1 { s.dp with bytecnt := 0 }, tws := twClosed 1 s.tws })))

/-- The TW reads of at least one byte take one strobe frame: the command bytes out, the line turned at the byte boundary when
there were some, then the bytes in, each the eight answers of its samples, LSB first; nothing else changes (R87, R145, R147 to
R151, R161). DIO's direction is IN before every frame (R451, the invariant). -/
def Obligations.TwReadsTakeOneFrame : Prop :=
  ∀ s : State, s.tws.frame = .idle → s.tws.dir = .input →
    (∀ (m n : Len) (txp : List Byte), txp.length = m.toNat → n ≠ 0 →
      exec (.twReadCmdData m n txp) s = .next (answered .ok (bytesSampled true n.toNat (answerAt s))
        (withEvents (twReadFrameEvents (d3 s) txp n.toNat (answerAt s))
          (afterAnswers (8 * n.toNat)
            { s with
              dp := dpAfterRead n.toNat true 8 (answerAt s) (dpAfterSent txp.length { s.dp with bytecnt := 0 })
              tws := twClosed (txp.length + n.toNat) s.tws })))) ∧
    (∀ n : Len, n ≠ 0 →
      exec (.twReadData n []) s = .next (answered .ok (bytesSampled true n.toNat (answerAt s))
        (withEvents (twReadFrameEvents (d3 s) [] n.toNat (answerAt s))
          (afterAnswers (8 * n.toNat)
            { s with
              dp := dpAfterRead n.toNat true 8 (answerAt s) { s.dp with bytecnt := 0 }
              tws := twClosed n.toNat s.tws })))) ∧
    exec (.twReadByte []) s = .next (answered .ok [byteSampled true (answerAt s)]
      (withEvents (twReadFrameEvents (d3 s) [] 1 (answerAt s))
        (afterAnswers 8
          { s with
            dp := dpAfterRead 1 true 8 (answerAt s) { s.dp with bytecnt := 0 }
            tws := twClosed 1 s.tws })))

/-- TW.BEGIN opens a frame and leaves the direction; TW.END closes it, in mid-byte too, and releases DIO (R142, R143, R155,
R156). -/
def Obligations.TwBeginAndEnd : Prop :=
  ∀ s : State,
    (s.tws.frame = .idle →
      exec (.twBegin []) s = .next (answered .ok []
        (withEvents [.set .stb false, .delay (d3 s)]
          { s with tws := { s.tws with frame := .opened, bitcnt := 0, stb := .driven false } }))) ∧
    (s.tws.frame = .opened →
      exec (.twEnd []) s = .next (answered .ok []
        (withEvents [.set .stb true, .setInput .dio, .delay (d3 s)]
          { s with
            tws := { frame := .idle, dir := .input, bitcnt := 0, stb := .driven true, clk := s.tws.clk, dio := .input } })))

/-- The TW bit primitives in an open frame: where the direction fits, one clock pulse with the bit driven, or sampled; at a byte
boundary TW.TXBIT turns the line without an event and TW.RXBIT releases it and waits a phase first; in mid-byte a turn is refused
with SEQ and nothing happens (R144, R145, R148, R157, R158). -/
def Obligations.TwBitPrimitives : Prop :=
  ∀ s : State, s.tws.frame = .opened →
    (∀ b : Bool, (s.tws.dir = .output ∨ s.tws.bitcnt = 0) →
      exec (.twTxBit b []) s = .next (answered .ok []
        (withEvents [.set .clk false, .set .dio b, .delay (d3 s), .set .clk true, .delay (d3 s)]
          { s with
            tws := { s.tws with dir := .output, bitcnt := s.tws.bitcnt + 1, clk := .driven true, dio := .driven b } }))) ∧
    (s.tws.dir = .input →
      exec (.twRxBit []) s = .next (answered .ok [boolByte (answerAt s 0)]
        (withEvents [.set .clk false, .delay (d3 s), .read .dio (answerAt s 0), .set .clk true, .delay (d3 s)]
          (afterAnswers 1 { s with tws := { s.tws with bitcnt := s.tws.bitcnt + 1, clk := .driven true } })))) ∧
    (s.tws.dir = .output → s.tws.bitcnt = 0 →
      exec (.twRxBit []) s = .next (answered .ok [boolByte (answerAt s 0)]
        (withEvents ([.setInput .dio, .delay (d3 s)] ++
            [.set .clk false, .delay (d3 s), .read .dio (answerAt s 0), .set .clk true, .delay (d3 s)])
          (afterAnswers 1
            { s with tws := { s.tws with dir := .input, bitcnt := 1, clk := .driven true, dio := .input } })))) ∧
    (∀ (b : Bool) (txp : List Byte), s.tws.dir = .input → s.tws.bitcnt ≠ 0 →
      exec (.twTxBit b txp) s = .next (rejected .seq s)) ∧
    (∀ txp : List Byte, s.tws.dir = .output → s.tws.bitcnt ≠ 0 → exec (.twRxBit txp) s = .next (rejected .seq s))

/-- The TW byte primitives at a byte boundary of an open frame: a byte out, LSB first, and a byte in, after the line is released
and a phase waited where the direction was OUT (R146, R147, R159, R160). -/
def Obligations.TwBytePrimitives : Prop :=
  ∀ s : State, s.tws.frame = .opened → s.tws.bitcnt = 0 →
    (∀ b : Byte,
      exec (.twTxByte b []) s = .next (answered .ok []
        (withEvents (twByteEvents (d3 s) b)
          { s with
            dp := { s.dp with sr := 0, bitcnt := 8, bytecnt := s.dp.bytecnt + 1 }
            tws := { s.tws with dir := .output, clk := .driven true, dio := .driven (b.getLsbD 7) } }))) ∧
    (s.tws.dir = .input →
      exec (.twRxByte []) s = .next (answered .ok [byteSampled true (answerAt s)]
        (withEvents (twReadEvents (d3 s) 1 (answerAt s))
          (afterAnswers 8
            { s with
              dp := { s.dp with sr := byteSampled true (answerAt s), bitcnt := 8, bytecnt := s.dp.bytecnt + 1 }
              tws := { s.tws with clk := .driven true } })))) ∧
    (s.tws.dir = .output →
      exec (.twRxByte []) s = .next (answered .ok [byteSampled true (answerAt s)]
        (withEvents ([.setInput .dio, .delay (d3 s)] ++ twReadEvents (d3 s) 1 (answerAt s))
          (afterAnswers 8
            { s with
              dp := { s.dp with sr := byteSampled true (answerAt s), bitcnt := 8, bytecnt := s.dp.bytecnt + 1 }
              tws := { s.tws with dir := .input, clk := .driven true, dio := .input } }))))

/-- The trace of a TW capability operation that transmits `k` bytes and receives `r` (and is no read of no bytes): its number of
events and its shortest duration (R163). -/
def Obligations.TwTraceLengthAndDuration : Prop :=
  ∀ (i : Instr) (s : State) (k r : Nat), Inv s → s.tws.frame = .idle → i.WellFormed → twCounts i = some (k, r) →
    ∃ t es, exec i s = .next t ∧ t.trace = s.trace ++ es ∧
      es.length = 5 + 40 * k + 40 * r + (if 0 < k ∧ 0 < r then 2 else 0) ∧
      duration es = d3 s * (2 + 16 * k + 16 * r + (if 0 < k ∧ 0 < r then 1 else 0))

/-- What a TW target sees of every TW capability operation that opens a frame: one frame, and in it the bits of the transmitted
bytes, LSB first, one on each rising clock edge while OBLE drives DIO (R164). What is seen is heard with the ideal levels of log
entry 20 (DESIGN CHOICE): only what OBLE drives counts. Before the first LED INIT the target itself may have seen an edge more
(70_reset_and_hazards.md R449). -/
def Obligations.TwTargetSeesTheBytes : Prop :=
  ∀ (i : Instr) (s : State), Inv s → s.tws.frame = .idle → i.WellFormed → (twCounts i).isSome = true →
    ∃ t es, exec i s = .next t ∧ t.trace = s.trace ++ es ∧ twFramesSeen es = [(twSentBytes i).flatMap bitsLow]

/-! The I2C engine (41_i2c.md). -/

/-- The I2C line primitives: START on an idle bus, repeated START on a held one, STOP, a bit sent and a bit received, each with its
events, its effect on the line drives and nothing else (R183 to R187, R200 to R203). -/
def Obligations.I2cLinePrimitives : Prop :=
  ∀ s : State,
    (s.i2cs.bus = .idle →
      exec (.i2cStart []) s = .next (answered .ok []
        (withEvents [.set .sda false, .delay (dI2c s), .set .scl false, .delay (dI2c s)]
          { s with i2cs := { bus := .held, sda := .low, scl := .low } }))) ∧
    (s.i2cs.bus = .held →
      exec (.i2cStart []) s = .next (answered .ok []
        (withEvents
          [.setInput .sda, .delay (dI2c s), .setInput .scl, .delay (dI2c s),
            .set .sda false, .delay (dI2c s), .set .scl false, .delay (dI2c s)]
          { s with i2cs := { bus := .held, sda := .low, scl := .low } })) ∧
      exec (.i2cStop []) s = .next (answered .ok []
        (withEvents
          [.set .sda false, .delay (dI2c s), .setInput .scl, .delay (dI2c s), .setInput .sda, .delay (dI2c s)]
          { s with i2cs := { bus := .idle, sda := .rel, scl := .rel } })) ∧
      (∀ b : Bool,
        exec (.i2cTxBit b []) s = .next (answered .ok []
          (withEvents
            [if b then .setInput .sda else .set .sda false, .delay (dI2c s), .setInput .scl, .delay (dI2c s), .set .scl false]
            { s with i2cs := { bus := .held, sda := if b then .rel else .low, scl := .low } }))) ∧
      exec (.i2cRxBit []) s = .next (answered .ok [boolByte (answerAt s 0)]
        (withEvents
          [.setInput .sda, .delay (dI2c s), .setInput .scl, .delay (dI2c s), .read .sda (answerAt s 0), .set .scl false]
          (afterAnswers 1 { s with i2cs := { bus := .held, sda := .rel, scl := .low } }))))

/-- I2C.ACKPOLL: with SCL found high after `w` waits within the bound, the next answer is the acknowledge bit, RXQ holds it and it
decides OK or ACKF; with SCL low at every read the poll times out after TACK waits, with TMO and ACKF. The bus stays held and ACKED
stays 0 either way, and one of the two happens whatever the oracle answers (R188, R204, R212). -/
def Obligations.I2cAckPollSamplesOrTimesOut : Prop :=
  ∀ s : State, s.i2cs.bus = .held →
    (∀ w : Nat, clockRises s w →
      exec (.i2cAckPoll []) s = .next (concluded
        { rc := ackCode (!answerAt s (w + 1)), tmo := false, acked := 0 } [boolByte (answerAt s (w + 1))]
        (withEvents (i2cAckEvents (dI2c s) w (answerAt s (w + 1)))
          (afterAnswers (w + 2)
            { s with
              dp := { s.dp with tmocnt := BitVec.ofNat 16 w }
              i2cs := { bus := .held, sda := .rel, scl := .low } })))) ∧
    (clockStuck s →
      exec (.i2cAckPoll []) s = .next (concluded { rc := .ackf, tmo := true, acked := 0 } [1]
        (withEvents (i2cTimeoutEvents (dI2c s) s.cfg.i2c.tack.toNat)
          (afterAnswers (s.cfg.i2c.tack.toNat + 1)
            { s with
              dp := { s.dp with tmocnt := s.cfg.i2c.tack }
              i2cs := { bus := .held, sda := .rel, scl := .low } })))) ∧
    ((∃ w, clockRises s w) ∨ clockStuck s)

/-- I2C.TXBYTE sends the byte in the configured order, then polls: ACKED counts the byte when it is acknowledged; not acknowledged
or timed out, the command ends with ACKF, the bus held and no STOP (R188, R189, R205, R208). -/
def Obligations.I2cTxByteSendsAndPolls : Prop :=
  ∀ (s : State) (b : Byte), s.i2cs.bus = .held →
    (∀ w : Nat, clockRises s w →
      exec (.i2cTxByte b []) s = .next (concluded
        { rc := ackCode (!answerAt s (w + 1)), tmo := false, acked := if answerAt s (w + 1) then 0 else 1 }
        [boolByte (answerAt s (w + 1))]
        (withEvents ((bitsIn s.cfg.i2c.lsbf b).flatMap (i2cBitEvents (dI2c s)) ++ i2cAckEvents (dI2c s) w (answerAt s (w + 1)))
          (afterAnswers (w + 2)
            { s with
              dp := { sr := 0, bitcnt := 8, bytecnt := s.dp.bytecnt + 1, tmocnt := BitVec.ofNat 16 w }
              i2cs := { bus := .held, sda := .rel, scl := .low } })))) ∧
    (clockStuck s →
      exec (.i2cTxByte b []) s = .next (concluded { rc := .ackf, tmo := true, acked := 0 } [1]
        (withEvents
          ((bitsIn s.cfg.i2c.lsbf b).flatMap (i2cBitEvents (dI2c s)) ++ i2cTimeoutEvents (dI2c s) s.cfg.i2c.tack.toNat)
          (afterAnswers (s.cfg.i2c.tack.toNat + 1)
            { s with
              dp := { sr := 0, bitcnt := 8, bytecnt := s.dp.bytecnt + 1, tmocnt := s.cfg.i2c.tack }
              i2cs := { bus := .held, sda := .rel, scl := .low } }))))

/-- I2C.RXBYTE releases SDA, samples eight bits into a byte in the configured order, then sends the acknowledge bit of its operand;
it is OK whatever the target does (R191, R206). -/
def Obligations.I2cRxByteSamplesAndAcknowledges : Prop :=
  ∀ (s : State) (m : Bool), s.i2cs.bus = .held →
    exec (.i2cRxByte m []) s = .next (answered .ok [byteSampled s.cfg.i2c.lsbf (answerAt s)]
      (withEvents (i2cReceiveEvents (dI2c s) m (answerAt s))
        (afterAnswers 8
          { s with
            dp := { s.dp with sr := byteSampled s.cfg.i2c.lsbf (answerAt s), bitcnt := 9, bytecnt := s.dp.bytecnt + 1 }
            i2cs := { bus := .held, sda := if m then .rel else .low, scl := .low } })))

/-- I2C.ADDR: nothing with AMODE = NONE; one byte with a 7-bit address or a combined 10-bit read; the 10-bit header and low byte of a
write, and after them, for a read that is not combined, a repeated START and the read header. RXQ holds the last acknowledge bit, and
whatever the target answers the bus stays held and the command ends with OK or ACKF (R190, R192, R207, R212). -/
def Obligations.I2cAddrSendsTheAddress : Prop :=
  ∀ (s : State) (combined rw : Bool), s.i2cs.bus = .held →
    (∃ t, exec (.i2cAddr combined rw []) s = .next t ∧ t.i2cs.bus = .held ∧ t.tws = s.tws ∧ KeepsRegisters s t ∧
      (t.status.rc = .ok ∧ t.rxq = [0] ∨ t.status.rc = .ackf ∧ t.rxq = [1])) ∧
    (s.cfg.i2c.amode = .none → exec (.i2cAddr combined rw []) s = .next (answered .ok [0] s)) ∧
    (∀ (x : Byte) (w : Nat), clockRises s w →
      (s.cfg.i2c.amode = .a7 ∧ x = addr7Byte s.cfg.i2c.addr rw) ∨
        (s.cfg.i2c.amode = .a10 ∧ rw = true ∧ combined = true ∧ x = addr10Header s.cfg.i2c.addr true) ∨
        (s.cfg.i2c.amode = .a10 ∧ (rw && combined) = false ∧ answerAt s (w + 1) = true ∧
          x = addr10Header s.cfg.i2c.addr false) →
      exec (.i2cAddr combined rw []) s = .next (concluded
        { rc := ackCode (!answerAt s (w + 1)), tmo := false, acked := if answerAt s (w + 1) then 0 else 1 }
        [boolByte (answerAt s (w + 1))]
        (withEvents (i2cByteEvents (addressLsb s.cfg.i2c) (dI2c s) w (answerAt s (w + 1)) x)
          (afterAnswers (w + 2)
            { s with
              dp := { sr := 0, bitcnt := 8, bytecnt := s.dp.bytecnt + 1, tmocnt := BitVec.ofNat 16 w }
              i2cs := { bus := .held, sda := .rel, scl := .low } })))) ∧
    (s.cfg.i2c.amode = .a10 → rw = false → acksAtOnce s 2 →
      exec (.i2cAddr combined rw []) s = .next (concluded { rc := .ok, tmo := false, acked := 2 } [0]
        (withEvents (sentEvents (dI2c s) (wireBytes s.cfg.i2c
            [addr10Header s.cfg.i2c.addr false, s.cfg.i2c.addr.extractLsb' 0 8] []))
          (afterAnswers 4
            { s with
              dp := dpAfterAcked 2 s.dp
              i2cs := { bus := .held, sda := .rel, scl := .low } })))) ∧
    (s.cfg.i2c.amode = .a10 → rw = true → combined = false → acksAtOnce s 3 →
      exec (.i2cAddr combined rw []) s = .next (concluded { rc := .ok, tmo := false, acked := 3 } [0]
        (withEvents
          (sentEvents (dI2c s) (wireBytes s.cfg.i2c
              [addr10Header s.cfg.i2c.addr false, s.cfg.i2c.addr.extractLsb' 0 8] []) ++
            i2cRstartEvents (dI2c s) ++ sentEvents (dI2c s) (wireBytes s.cfg.i2c [addr10Header s.cfg.i2c.addr true] []))
          (afterAnswers 6
            { s with
              dp := dpAfterAcked 3 s.dp
              i2cs := { bus := .held, sda := .rel, scl := .low } }))))

/-- I2C.WRITE_CMD_DATA, I2C.WRITE_DATA and I2C.WRITE_BYTE on an idle bus, every byte acknowledged at once: START, the address, the
bytes, STOP; OK, ACKED counts address and payload bytes up to 4095, and the bus is idle again (R192, R194 to R196, R208, R210). -/
def Obligations.I2cWritesAcknowledged : Prop :=
  ∀ (i : Instr) (s : State) (bs : List Byte), i2cWriteBytes i = some bs → s.i2cs.bus = .idle →
    acksAtOnce s ((writeAddress s.cfg.i2c).length + bs.length) →
    exec i s = .next (concluded
      { rc := .ok, tmo := false, acked := ackedAfter ((writeAddress s.cfg.i2c).length + bs.length) 0 } []
      (withEvents (transactionEvents s.cfg.i2c (dI2c s) bs)
        (afterAnswers (2 * ((writeAddress s.cfg.i2c).length + bs.length))
          { s with
            dp := dpAfterAcked ((writeAddress s.cfg.i2c).length + bs.length) { s.dp with bytecnt := 0 }
            i2cs := { bus := .idle, sda := .rel, scl := .rel } })))

/-- The same writes with a byte that fails: the bytes before it acknowledged at once, the byte itself not acknowledged or its poll
timed out. It is the last byte sent; the STOP follows at once; ACKF, ACKED counts the bytes before it, and TMO tells a timeout from
a byte not acknowledged (R193 to R196, R208, R212). -/
def Obligations.I2cWritesStopAtTheFirstFailure : Prop :=
  ∀ (i : Instr) (s : State) (bs : List Byte) (sent rest : List (Bool × Byte)) (w : Bool × Byte),
    i2cWriteBytes i = some bs → s.i2cs.bus = .idle →
    wireBytes s.cfg.i2c (writeAddress s.cfg.i2c) bs = sent ++ w :: rest → acksAtOnce s sent.length →
    (answerAt s (2 * sent.length) = true → answerAt s (2 * sent.length + 1) = true →
      exec i s = .next (concluded { rc := .ackf, tmo := false, acked := ackedAfter sent.length 0 } []
        (withEvents
          (i2cStartEvents (dI2c s) ++ sentEvents (dI2c s) sent ++ i2cByteEvents w.1 (dI2c s) 0 true w.2 ++
            i2cStopEvents (dI2c s))
          (afterAnswers (2 * sent.length + 2)
            { s with
              dp := { sr := 0, bitcnt := 8, bytecnt := BitVec.ofNat 12 (sent.length + 1), tmocnt := 0 }
              i2cs := { bus := .idle, sda := .rel, scl := .rel } })))) ∧
    ((∀ j, j ≤ s.cfg.i2c.tack.toNat → answerAt s (2 * sent.length + j) = false) →
      exec i s = .next (concluded { rc := .ackf, tmo := true, acked := ackedAfter sent.length 0 } []
        (withEvents
          (i2cStartEvents (dI2c s) ++ sentEvents (dI2c s) sent ++ (bitsIn w.1 w.2).flatMap (i2cBitEvents (dI2c s)) ++
            i2cTimeoutEvents (dI2c s) s.cfg.i2c.tack.toNat ++ i2cStopEvents (dI2c s))
          (afterAnswers (2 * sent.length + s.cfg.i2c.tack.toNat + 1)
            { s with
              dp := { sr := 0, bitcnt := 8, bytecnt := BitVec.ofNat 12 (sent.length + 1), tmocnt := s.cfg.i2c.tack }
              i2cs := { bus := .idle, sda := .rel, scl := .rel } }))))

/-- I2C.READ_CMD_DATA, I2C.READ_DATA and I2C.READ_BYTE of at least one byte on an idle bus, every sent byte acknowledged at once: the
request, with its repeated START where the rules put one, then the bytes received, each acknowledged but the last, then STOP; OK,
RXQ the bytes, ACKED the bytes sent (R191, R192, R197 to R199). -/
def Obligations.I2cReadsAcknowledged : Prop :=
  ∀ (i : Instr) (s : State) (cs : List Byte) (n k : Nat),
    i2cReadOperands i = some (cs, n) → n ≠ 0 → s.i2cs.bus = .idle → k = readRequestLength s.cfg.i2c cs → acksAtOnce s k →
    exec i s = .next (concluded { rc := .ok, tmo := false, acked := ackedAfter k 0 }
      (bytesSampled s.cfg.i2c.lsbf n (fun j => answerAt s (2 * k + j)))
      (withEvents (i2cReadTransaction s.cfg.i2c (dI2c s) cs n (fun j => answerAt s (2 * k + j)))
        (afterAnswers (2 * k + 8 * n)
          { s with
            dp := dpAfterRead n s.cfg.i2c.lsbf 9 (fun j => answerAt s (2 * k + j)) (dpAfterAcked k { s.dp with bytecnt := 0 })
            i2cs := { bus := .idle, sda := .rel, scl := .rel } })))

/-- The same reads with a byte of the request not acknowledged, before the repeated START or after it: nothing is read, the STOP
follows at once, RXQ is empty and the command ends with ACKF (R193, R197 to R199). -/
def Obligations.I2cReadsStopAtTheFirstNack : Prop :=
  ∀ (i : Instr) (s : State) (cs : List Byte) (n : Nat) (sent rest : List (Bool × Byte)) (w : Bool × Byte),
    i2cReadOperands i = some (cs, n) → n ≠ 0 → s.i2cs.bus = .idle →
    ((readRequest s.cfg.i2c cs).1 = sent ++ w :: rest → acksAtOnce s sent.length →
      answerAt s (2 * sent.length) = true → answerAt s (2 * sent.length + 1) = true →
      exec i s = .next (concluded { rc := .ackf, tmo := false, acked := ackedAfter sent.length 0 } []
        (withEvents
          (i2cStartEvents (dI2c s) ++ sentEvents (dI2c s) sent ++ i2cByteEvents w.1 (dI2c s) 0 true w.2 ++
            i2cStopEvents (dI2c s))
          (afterAnswers (2 * sent.length + 2)
            { s with
              dp := { sr := 0, bitcnt := 8, bytecnt := BitVec.ofNat 12 (sent.length + 1), tmocnt := 0 }
              i2cs := { bus := .idle, sda := .rel, scl := .rel } })))) ∧
    (∀ k, k = (readRequest s.cfg.i2c cs).1.length → (readRequest s.cfg.i2c cs).2 = [w] → acksAtOnce s k →
      answerAt s (2 * k) = true → answerAt s (2 * k + 1) = true →
      exec i s = .next (concluded { rc := .ackf, tmo := false, acked := ackedAfter k 0 } []
        (withEvents
          (i2cStartEvents (dI2c s) ++ sentEvents (dI2c s) (readRequest s.cfg.i2c cs).1 ++ i2cRstartEvents (dI2c s) ++
            i2cByteEvents w.1 (dI2c s) 0 true w.2 ++ i2cStopEvents (dI2c s))
          (afterAnswers (2 * k + 2)
            { s with
              dp := { sr := 0, bitcnt := 8, bytecnt := BitVec.ofNat 12 (k + 1), tmocnt := 0 }
              i2cs := { bus := .idle, sda := .rel, scl := .rel } }))))

/-- A read of no bytes, on either engine, emits no event and is OK with no result, command bytes or not (40_threewire.md R149, R150;
41_i2c.md R197, R198, R210). That the I2C ones clear BYTECNT is the model's reading (log entry 12). -/
def Obligations.ReadsOfNothingAreQuiet : Prop :=
  (∀ (s : State) (m : Len) (txp : List Byte), s.tws.frame = .idle → txp.length = m.toNat →
    exec (.twReadCmdData m 0 txp) s = .next (answered .ok [] s)) ∧
  (∀ s : State, s.tws.frame = .idle → exec (.twReadData 0 []) s = .next (answered .ok [] s)) ∧
  (∀ (s : State) (m : Len) (txp : List Byte), s.i2cs.bus = .idle → txp.length = m.toNat →
    exec (.i2cReadCmdData m 0 txp) s = .next (answered .ok [] { s with dp := { s.dp with bytecnt := 0 } })) ∧
  (∀ s : State, s.i2cs.bus = .idle →
    exec (.i2cReadData 0 []) s = .next (answered .ok [] { s with dp := { s.dp with bytecnt := 0 } }))

/-- Whatever the target answers, an I2C capability operation that its bus state and payload length let run finishes with OK or ACKF,
leaves the bus idle with both lines released, and leaves the TW engine, every configuration and controller register and WBUF as they
were; a read's RXQ holds all its bytes or, after ACKF, none; a timeout is always ACKF (R193 to R199, R212, R454). -/
def Obligations.I2cOperationsLeaveTheBusIdle : Prop :=
  ∀ (i : Instr) (s : State), (i2cWriteBytes i).isSome = true ∨ (i2cReadOperands i).isSome = true →
    s.i2cs = { bus := .idle, sda := .rel, scl := .rel } →
    ∃ t, exec i s = .next t ∧ (t.status.rc = .ok ∨ t.status.rc = .ackf) ∧
      t.i2cs = { bus := .idle, sda := .rel, scl := .rel } ∧ t.tws = s.tws ∧ KeepsRegisters s t ∧
      (∀ bs, i2cWriteBytes i = some bs → t.rxq = []) ∧
      (∀ cs n, i2cReadOperands i = some (cs, n) → t.rxq.length = if t.status.rc = .ok then n else 0) ∧
      (t.status.tmo = true → t.status.rc = .ackf)

/-- The I2C timing of the common cases, on the trace of the commands: a 7-bit write of `k` bytes, a 7-bit read of `n` bytes, both
acknowledged at once, and a 7-bit write whose address byte times out: the number of events and the shortest duration of each (R213;
70_reset_and_hazards.md R457). -/
def Obligations.I2cCommandTiming : Prop :=
  ∀ (i : Instr) (s : State), s.cfg.i2c.amode = .a7 → s.i2cs.bus = .idle →
    (∀ bs, i2cWriteBytes i = some bs → acksAtOnce s (bs.length + 1) →
      ∃ t es, exec i s = .next t ∧ t.trace = s.trace ++ es ∧ es.length = 57 + 47 * bs.length ∧
        duration es = 23 * dI2c s + 18 * dI2c s * bs.length) ∧
    (∀ n, i2cReadOperands i = some ([], n) → n ≠ 0 → acksAtOnce s 1 →
      ∃ t es, exec i s = .next t ∧ t.trace = s.trace ++ es ∧ es.length = 57 + 46 * n ∧
        duration es = 23 * dI2c s + 18 * dI2c s * n) ∧
    (∀ bs, i2cWriteBytes i = some bs → clockStuck s →
      ∃ t es, exec i s = .next t ∧ t.trace = s.trace ++ es ∧ es.length = 55 + 2 * s.cfg.i2c.tack.toNat ∧
        duration es = 22 * dI2c s + s.cfg.i2c.tack.toNat)

/-- What an I2C target sees of the I2C writes and of the I2C reads of at least one byte, on an idle bus with every sent byte
acknowledged at once: START, then the bits of every byte in its order, each followed by the acknowledge bit, a repeated START where
there is one, STOP, and no START or STOP in between (R194 to R199, R214). What is seen is heard with the ideal levels of log entry
20 (DESIGN CHOICE): a released line reads high, but for the answers taken. -/
def Obligations.I2cTargetSeesTheTransaction : Prop :=
  ∀ (i : Instr) (s : State) (sent : List (Bool × Byte) → List I2cSymbol), s.i2cs.bus = .idle →
    (∀ ws, sent ws = ws.flatMap (fun w => (bitsIn w.1 w.2).map .bit ++ [.bit false])) →
    (∀ bs, i2cWriteBytes i = some bs → acksAtOnce s ((writeAddress s.cfg.i2c).length + bs.length) →
      ∃ t es, exec i s = .next t ∧ t.trace = s.trace ++ es ∧
        i2cSymbolsSeen es = .start :: sent (wireBytes s.cfg.i2c (writeAddress s.cfg.i2c) bs) ++ [.stop]) ∧
    (∀ cs n k, i2cReadOperands i = some (cs, n) → n ≠ 0 → k = readRequestLength s.cfg.i2c cs → acksAtOnce s k →
      ∃ t es, exec i s = .next t ∧ t.trace = s.trace ++ es ∧
        i2cSymbolsSeen es =
          .start :: sent (readRequest s.cfg.i2c cs).1 ++
            (if (readRequest s.cfg.i2c cs).2.isEmpty then [] else .start :: sent (readRequest s.cfg.i2c cs).2) ++
            (List.range n).flatMap (fun j =>
              (List.range 8).map (fun b => .bit (answerAt s (2 * k + (8 * j + b)))) ++ [.bit (decide (j + 1 = n))]) ++
            [.stop])

/-! The controller and its backends (42_controller.md, 44_backends.md). -/

/-- The commands that only answer return a register, or the version string, and change nothing (42_controller.md R242, R244, R246,
R254, R257). -/
def Obligations.GettersReturnTheRegisters : Prop :=
  ∀ s : State, bothIdle s →
    exec (.ctlGetBrightness []) s = .next (answered .ok [s.ctlr.bright] s) ∧
    exec (.ctlGetPower []) s = .next (answered .ok [if s.ctlr.power then 1 else 0] s) ∧
    exec (.ctlGetDescriptor []) s = .next (answered .ok
      [s.ctlr.desc.extractLsb' 0 8, s.ctlr.desc.extractLsb' 8 8, s.ctlr.desc.extractLsb' 16 8, s.ctlr.desc.extractLsb' 24 8] s) ∧
    exec (.ctlGetMode []) s = .next (answered .ok [s.ctlr.mode] s) ∧
    exec (.miscGetVersion []) s = .next (answered .ok s.par.version s)

/-- The commands that only write a register emit no event: SET_ICON sets or clears the icon's mask on the applied panel,
SET_INDICATOR_MASK replaces ICON, SET_MODE writes MODE, SET_ORDER writes seven entries in 0..6 (42_controller.md R248, R252, R253,
R255). -/
def Obligations.SettersWriteTheirRegister : Prop :=
  ∀ s : State, bothIdle s →
    (∀ (id : BitVec 4) (m : Word), m = (s.par.dotTable.lookup (descType s.ctlr.desc, id)).getD 0 →
      exec (.ctlSetIcon id true []) s =
        .next (answered .ok [] { s with ctlr := { s.ctlr with icon := s.ctlr.icon ||| m } }) ∧
      exec (.ctlSetIcon id false []) s =
        .next (answered .ok [] { s with ctlr := { s.ctlr with icon := s.ctlr.icon &&& ~~~m } })) ∧
    (∀ lo hi : Byte,
      exec (.ctlSetIndicatorMask [lo, hi]) s = .next (answered .ok [] { s with ctlr := { s.ctlr with icon := hi ++ lo } })) ∧
    (∀ v : Byte, exec (.ctlSetMode v []) s = .next (answered .ok [] { s with ctlr := { s.ctlr with mode := v } })) ∧
    (∀ o : Seven (Fin 7),
      exec (.ctlSetOrder (o.toList.map (fun i => BitVec.ofNat 8 i.val))) s =
        .next (answered .ok [] { s with ctlr := { s.ctlr with order := o } }))

/-- The operand values the controller refuses, in the order of the checks: REJECT for a level, a display type, an order entry or a
window out of range; LENGTH for a raw frame of more than seven words, a record of the wrong size or a window whose area is not the
number of data bytes; UNSUPPORTED for a raw write on an OLED and an OLED command on an LED or an LCD. Nothing changes but STATUS and
RXQ. A display frame for the rendering engine of LCD and OLED is refused by the model, as the rules ask (42_controller.md R243, R247,
R250 to R252; 44_backends.md R362 to R365; 60_exceptions.md R405, R406, R413). -/
def Obligations.RefusedOperands : Prop :=
  ∀ s : State, bothIdle s →
    (∀ l : Byte, levels s.par s.ctlr.active ≤ l.toNat → exec (.ctlSetBrightness l []) s = .next (rejected .reject s)) ∧
    (∀ ty a f k : Byte, s.par.numTypes ≤ ty.toNat → exec (.ctlSetDescriptor [ty, a, f, k]) s = .next (rejected .reject s)) ∧
    (∀ txp : List Byte, txp.length = 7 → (∃ b, b ∈ txp ∧ 6 < b.toNat) →
      exec (.ctlSetOrder txp) s = .next (rejected .reject s)) ∧
    (∀ (n : Len) (txp : List Byte), txp.length = 2 * n.toNat →
      (7 < n.toNat → exec (.ctlWriteRaw n txp) s = .next (rejected .length s)) ∧
      (n.toNat ≤ 7 → s.ctlr.active = .oledA ∨ s.ctlr.active = .oledB →
        exec (.ctlWriteRaw n txp) s = .next (rejected .unsupported s))) ∧
    (∀ (n : Len) (txp : List Byte), txp.length = n.toNat →
      (n.toNat ≠ s.par.ddSize → exec (.ctlWriteDisplayFrame n txp) s = .next (rejected .length s)) ∧
      (n.toNat = s.par.ddSize → s.ctlr.active = .lcd ∨ s.ctlr.active = .oledA ∨ s.ctlr.active = .oledB →
        exec (.ctlWriteDisplayFrame n txp) s = .refused .renderingEngine)) ∧
    (s.ctlr.active = .led ∨ s.ctlr.active = .lcd →
      (∀ (n : Len) (txp : List Byte), txp.length = n.toNat →
        exec (.oledCmd n txp) s = .next (rejected .unsupported s) ∧
        exec (.oledData n txp) s = .next (rejected .unsupported s)) ∧
      (∀ (n : Len) (txp : List Byte), txp.length = 4 + n.toNat →
        exec (.oledWindow n txp) s = .next (rejected .unsupported s)) ∧
      exec (.oledClear []) s = .next (rejected .unsupported s)) ∧
    (s.ctlr.active = .oledA ∨ s.ctlr.active = .oledB →
      ∀ (n : Len) (c0 c1 p0 p1 : Byte) (data : List Byte), data.length = n.toNat →
        (c1 < c0 ∨ s.par.oledCols ≤ c1.toNat ∨ p1 < p0 ∨ s.par.oledBanks ≤ p1.toNat →
          exec (.oledWindow n (c0 :: c1 :: p0 :: p1 :: data)) s = .next (rejected .reject s)) ∧
        (c0 ≤ c1 → c1.toNat < s.par.oledCols → p0 ≤ p1 → p1.toNat < s.par.oledBanks →
          n.toNat ≠ (c1.toNat - c0.toNat + 1) * (p1.toNat - p0.toNat + 1) →
          exec (.oledWindow n (c0 :: c1 :: p0 :: p1 :: data)) s = .next (rejected .length s)))

/-- On DUMMY the brightness, power, raw, frame and OLED commands are accepted with OK and without an event: the register writes take
place, a raw write returns its count, a raw read returns no byte, and the OLED commands are not checked further (42_controller.md
R249; 44_backends.md R367; 60_exceptions.md R406). -/
def Obligations.DummyAcceptsEverything : Prop :=
  ∀ s : State, bothIdle s → s.ctlr.active = .dummy → s.par.brightCmd = [] →
    (∀ l : Byte, l.toNat < levels s.par .dummy →
      exec (.ctlSetBrightness l []) s = .next (answered .ok [] { s with ctlr := { s.ctlr with bright := l } })) ∧
    (∀ on : Bool,
      exec (.ctlSetPower on []) s = .next (answered .ok [] { s with ctlr := { s.ctlr with power := on } })) ∧
    (∀ n : Len, exec (.ctlReadRaw n []) s = .next (answered .ok [] s)) ∧
    (∀ (n : Len) (txp : List Byte), txp.length = 2 * n.toNat → n.toNat ≤ 7 →
      exec (.ctlWriteRaw n txp) s = .next (answered .ok [BitVec.ofNat 8 n.toNat] s)) ∧
    (∀ (n : Len) (txp : List Byte), txp.length = n.toNat →
      (n.toNat = s.par.ddSize → exec (.ctlWriteDisplayFrame n txp) s = .next (answered .ok [] s)) ∧
      exec (.oledCmd n txp) s = .next (answered .ok [] s) ∧ exec (.oledData n txp) s = .next (answered .ok [] s)) ∧
    (∀ (n : Len) (txp : List Byte), txp.length = 4 + n.toNat →
      exec (.oledWindow n txp) s = .next (answered .ok [] s)) ∧
    exec (.oledClear []) s = .next (answered .ok [] s)

/-- Brightness and power on the LED backend over TW: a register is written and one frame of one byte is sent, 0x80 with bit 3 for the
power and the level in bits 2 to 0; with POWER = 0 the level is stored and the byte keeps bit 3 clear (42_controller.md R243, R245;
44_backends.md R349). BYTECNT counts on from its value, since the body of the write begins with its first event (R345). That a BRIGHT
above 7 gives its low three bits is the model's reading (DEDUCED, log entry 13). -/
def Obligations.LedBrightnessAndPower : Prop :=
  ∀ s : State, bothIdle s → s.ctlr.active = .led → busOf s.par .led = .tw → s.par.brightCmd = [] →
    (∀ l : Byte, l.toNat < 8 →
      exec (.ctlSetBrightness l []) s = .next (answered .ok []
        (withEvents (twFrameEvents (d3 s) [(if s.ctlr.power then 0x88 else 0x80) ||| l])
          { s with
            ctlr := { s.ctlr with bright := l }
            dp := dpAfterSent 1 s.dp
            tws := twClosed 1 s.tws }))) ∧
    (∀ on : Bool,
      exec (.ctlSetPower on []) s = .next (answered .ok []
        (withEvents (twFrameEvents (d3 s) [(if on then 0x88 else 0x80) ||| (s.ctlr.bright &&& 0x07)])
          { s with
            ctlr := { s.ctlr with power := on }
            dp := dpAfterSent 1 s.dp
            tws := twClosed 1 s.tws })))

/-- Brightness and power on a backend on I2C, every byte acknowledged at once: a register is written and the backend's commands go out,
byte for byte, with the power the register then holds (42_controller.md R243, R245; 44_backends.md R345, R349, R351 to R353, R356,
R366). That a BRIGHT above 7 gives the LED byte its low three bits is the model's reading (DEDUCED, log entry 13). -/
def Obligations.I2cBrightnessAndPower : Prop :=
  ∀ s : State, DefaultCommands s.par → s.i2cs = i2cClosed → s.tws.frame = .idle → busOf s.par s.ctlr.active = .i2c →
    (∀ l : Byte, l.toNat < levels s.par s.ctlr.active →
      acksAtOnce s (runBytes s.cfg.i2c (brightnessCmds s.par s.ctlr.active l s.ctlr.power)) →
      exec (.ctlSetBrightness l []) s = .next (acknowledgedRun (brightnessCmds s.par s.ctlr.active l s.ctlr.power) []
        { s with ctlr := { s.ctlr with bright := l } })) ∧
    (∀ on : Bool, acksAtOnce s (runBytes s.cfg.i2c (brightnessCmds s.par s.ctlr.active s.ctlr.bright on)) →
      exec (.ctlSetPower on []) s = .next (acknowledgedRun (brightnessCmds s.par s.ctlr.active s.ctlr.bright on) []
        { s with ctlr := { s.ctlr with power := on } }))

/-- INIT completes whatever the target answers, and so do SET_DESCRIPTOR with a valid type and RELOAD_DEFAULTS: they are INIT from the
state with their registers written, and leave WBUF and every register they do not name (42_controller.md R241, R247, R256;
44_backends.md R341, R342, R344, R368). -/
def Obligations.InitAlwaysCompletes : Prop :=
  ∀ s : State, bothIdle s →
    (∃ t, exec (.ctlInit []) s = .next t ∧ Initialised s t) ∧
    (∀ (ty a f k : Byte) (r : State), ty.toNat < s.par.numTypes →
      r = { s with ctlr := { s.ctlr with desc := k ++ f ++ a ++ ty, layout := layoutOf s.par (k ++ f ++ a ++ ty) } } →
      ∃ t, exec (.ctlSetDescriptor [ty, a, f, k]) s = .next t ∧ exec (.ctlInit []) r = .next t ∧ Initialised r t) ∧
    (∀ r : State,
      r = { s with
        cfg := { s.cfg with i2c := s.par.i2c }
        ctlr :=
          { desc := s.par.defaultDesc, order := s.par.defaultOrder, bright := s.par.brightReset, power := s.par.powerReset,
            icon := 0, mode := 0, active := s.ctlr.active, layout := layoutOf s.par s.par.defaultDesc } } →
      ∃ t, exec (.ctlReloadDefaults []) s = .next t ∧ exec (.ctlInit []) r = .next t ∧ Initialised r t)

/-- INIT where the bring-up needs no acknowledge: on LED over TW the line set-up, the mode frame and the brightness frame; on a kind
without a backend nothing; on an I2C backend whose descriptor gives an address that its target, without stretching the clock, does not
acknowledge, the probe alone, after which ACTIVE is DUMMY and the command is OK all the same (42_controller.md R241; 44_backends.md
R344, R346, R349, R367, R368). That an INIT over TW starts BYTECNT from 0, and that a BRIGHT above 7 gives its low three bits, are the
model's readings (DEDUCED, log entries 12 and 13). -/
def Obligations.InitOnLedAndDummy : Prop :=
  ∀ s : State, bothIdle s → s.par.brightCmd = [] →
    (backendOf s.par s.ctlr.desc = .led → busOf s.par .led = .tw →
      exec (.ctlInit []) s = .next (answered .ok []
        (withEvents
          ([.set .stb true, .set .clk true, .setInput .dio, .delay (d3 s)] ++ twFrameEvents (d3 s) [s.par.twModeCmd] ++
            twFrameEvents (d3 s) [(if s.ctlr.power then 0x88 else 0x80) ||| (s.ctlr.bright &&& 0x07)])
          { s with
            ctlr := { s.ctlr with active := .led }
            dp := dpAfterSent 2 { s.dp with bytecnt := 0 }
            tws := twClosed 1 s.tws }))) ∧
    (backendOf s.par s.ctlr.desc = .dummy → busOf s.par .dummy ≠ .i2c →
      exec (.ctlInit []) s = .next (answered .ok []
        { s with
          ctlr := { s.ctlr with active := .dummy }
          dp := if busOf s.par .dummy = .tw then { s.dp with bytecnt := 0 } else s.dp })) ∧
    (busOf s.par (backendOf s.par s.ctlr.desc) = .i2c → descAddr s.ctlr.desc ≠ 0 → answerAt s 0 = true → answerAt s 1 = true →
      exec (.ctlInit []) s = .next (answered .ok []
        (withEvents
          (i2cStartEvents (dI2c s) ++
            i2cByteEvents (addressLsb s.cfg.i2c) (dI2c s) 0 true ((descAddr s.ctlr.desc) <<< 1) ++ i2cStopEvents (dI2c s))
          (afterAnswers 2
            { s with
              ctlr := { s.ctlr with active := .dummy }
              cfg := addressed s.par s.ctlr.desc s.cfg
              dp := { sr := 0, bitcnt := 8, bytecnt := 1, tmocnt := 0 }
              i2cs := { bus := .idle, sda := .rel, scl := .rel } }))))

/-- INIT on a backend on I2C, every byte acknowledged at once: the address of the descriptor applied, the probe, the backend's bring-up
and its brightness command, byte for byte, with the settling waits (42_controller.md R241; 44_backends.md R344 to R346, R354, R358,
R359, R368). The bytes of an OLED geometry that does not fit a byte, or is 0, and of a BRIGHT above 7 on LED, are the model's (DEDUCED
and DESIGN CHOICE, log entries 13 and 14). -/
def Obligations.I2cInitAcknowledged : Prop :=
  ∀ (s r : State) (b : Backend) (cmds : List Cmd), DefaultCommands s.par → s.i2cs = i2cClosed → s.tws.frame = .idle →
    b = backendOf s.par s.ctlr.desc → busOf s.par b = .i2c →
    r = { s with ctlr := { s.ctlr with active := b }, cfg := addressed s.par s.ctlr.desc s.cfg } →
    cmds = .w [] [] :: bringUpCmds s.par b s.ctlr.desc s.ctlr.bright s.ctlr.power ++
      brightnessCmds s.par b s.ctlr.bright s.ctlr.power →
    acksAtOnce s (runBytes r.cfg.i2c cmds) → exec (.ctlInit []) s = .next (acknowledgedRun cmds [] r)

/-- A frame on the LED backend over TW: the icons merged and the layout applied into WBUF, then the data-setting frame and the address
frame with the fourteen bytes of WBUF. WRITE_RAW takes up to seven words, missing words 0, and returns their count;
WRITE_DISPLAY_FRAME takes the clock frame, or what the decoder's parameter composes, and returns nothing (42_controller.md R250, R251;
43_layout.md R301, R307; 44_backends.md R345, R347). BYTECNT counts on from its value. -/
def Obligations.LedFramesOverTw : Prop :=
  ∀ (s : State) (sent : Frame → State), bothIdle s → s.ctlr.active = .led → busOf s.par .led = .tw →
    (∀ w : Frame, sent w =
      withEvents (twFrameEvents (d3 s) [s.par.twDataCmd] ++ twFrameEvents (d3 s) (s.par.twAddrCmd :: frameBytes w))
        { s with wbuf := w, dp := dpAfterSent 16 s.dp, tws := twClosed 15 s.tws }) →
    (∀ ws : List Word, ws.length ≤ 7 →
      exec (.ctlWriteRaw (BitVec.ofNat 12 ws.length) (ws.flatMap (fun w => [w.extractLsb' 0 8, w.extractLsb' 8 8]))) s =
        .next (answered .ok [BitVec.ofNat 8 ws.length] (sent (physicalFrame s (Seven.ofFn (fun i => ws.getD i.val 0)))))) ∧
    (∀ (n : Len) (txp : List Byte) (dd : DisplayData), txp.length = n.toNat → n.toNat = s.par.ddSize → dd = ddDecode s.par txp →
      exec (.ctlWriteDisplayFrame n txp) s = .next (answered .ok [] (sent (physicalFrame s
        (if dd.mode = .clock then ledClock s dd.hours.val dd.minutes.val dd.seconds.val dd.colon else ledCompose s.par dd)))))

/-- A raw write on I2C, every byte acknowledged at once: on the LCD the colon or a space and up to four characters at their columns,
WBUF not touched; on an LED on I2C the commands its parameter gives for the new WBUF, for a display frame too (42_controller.md R250,
R251; 44_backends.md R348, R351 to R353, R355). -/
def Obligations.I2cFramesAcknowledged : Prop :=
  ∀ s : State, DefaultCommands s.par → s.i2cs = i2cClosed → s.tws.frame = .idle →
    (∀ (ws : List Word) (bl : Byte) (colon : Byte) (put : Byte → Byte → List Cmd) (cmds : List Cmd),
      s.ctlr.active = .lcd → busOf s.par .lcd = .i2c → ws.length ≤ 7 → bl = (if s.ctlr.power then 0x08 else 0x00) →
      colon = (if (ws.getD 0 0 ||| s.ctlr.icon) &&& dotMask s iconColon = 0 then 0x20 else 0x3A) →
      (∀ col ch, put col ch = lcdByteCmds s.par bl 0 (0x80 ||| col) ++ lcdByteCmds s.par bl 1 ch) →
      cmds =
        (if 1 ≤ ws.length then put s.par.lcdColonCol colon else []) ++
        (if 2 ≤ ws.length then put s.par.lcdCol1 ((ws.getD 1 0).extractLsb' 0 8) else []) ++
        (if 3 ≤ ws.length then put s.par.lcdCol2 ((ws.getD 2 0).extractLsb' 0 8) else []) ++
        (if 4 ≤ ws.length then put s.par.lcdCol3 ((ws.getD 3 0).extractLsb' 0 8) else []) ++
        (if 5 ≤ ws.length then put s.par.lcdCol4 ((ws.getD 4 0).extractLsb' 0 8) else []) →
      acksAtOnce s (runBytes s.cfg.i2c cmds) →
      exec (.ctlWriteRaw (BitVec.ofNat 12 ws.length) (ws.flatMap (fun w => [w.extractLsb' 0 8, w.extractLsb' 8 8]))) s =
        .next (acknowledgedRun cmds [BitVec.ofNat 8 ws.length] s)) ∧
    (∀ (ws : List Word) (w : Frame), s.ctlr.active = .led → busOf s.par .led = .i2c → ws.length ≤ 7 →
      w = physicalFrame s (Seven.ofFn (fun i => ws.getD i.val 0)) → acksAtOnce s (runBytes s.cfg.i2c (ledI2cEmit s.par w)) →
      exec (.ctlWriteRaw (BitVec.ofNat 12 ws.length) (ws.flatMap (fun w => [w.extractLsb' 0 8, w.extractLsb' 8 8]))) s =
        .next (acknowledgedRun (ledI2cEmit s.par w) [BitVec.ofNat 8 ws.length] { s with wbuf := w })) ∧
    (∀ (n : Len) (txp : List Byte) (w : Frame), s.ctlr.active = .led → busOf s.par .led = .i2c →
      txp.length = n.toNat → n.toNat = s.par.ddSize → w = physicalFrame s (displayFrame s (ddDecode s.par txp)) →
      acksAtOnce s (runBytes s.cfg.i2c (ledI2cEmit s.par w)) →
      exec (.ctlWriteDisplayFrame n txp) s = .next (acknowledgedRun (ledI2cEmit s.par w) [] { s with wbuf := w }))

/-- READ_RAW on LED over TW reads `n` bytes in one frame after the read command; on a backend on I2C, with every sent byte acknowledged
at once, one read transaction, after the read command where there is one; BYTECNT counts on from its value, since the body of the read
begins with its first event. A read of no bytes does nothing (42_controller.md R249; 44_backends.md R345, R350). -/
def Obligations.ReadRawReadsTheTarget : Prop :=
  ∀ (s : State) (n : Len), DefaultCommands s.par →
    (s.ctlr.active = .led → busOf s.par .led = .tw → bothIdle s →
      (n = 0 → exec (.ctlReadRaw n []) s = .next (answered .ok [] s)) ∧
      (n ≠ 0 → s.tws.dir = .input →
        exec (.ctlReadRaw n []) s = .next (answered .ok (bytesSampled true n.toNat (answerAt s))
          (withEvents (twReadFrameEvents (d3 s) [0x42] n.toNat (answerAt s))
            (afterAnswers (8 * n.toNat)
              { s with
                dp := dpAfterRead n.toNat true 8 (answerAt s) (dpAfterSent 1 s.dp)
                tws := twClosed (1 + n.toNat) s.tws }))))) ∧
    (∀ (cs : List Byte) (k : Nat), s.ctlr.active ≠ .dummy → busOf s.par s.ctlr.active = .i2c →
      cs = (if s.ctlr.active = .led then [0x42] else []) → k = readRequestLength s.cfg.i2c cs → bothIdle s →
      (n = 0 → exec (.ctlReadRaw n []) s = .next (answered .ok [] s)) ∧
      (n ≠ 0 → acksAtOnce s k →
        exec (.ctlReadRaw n []) s = .next (concluded { rc := .ok, tmo := false, acked := ackedAfter k 0 }
          (bytesSampled s.cfg.i2c.lsbf n.toNat (fun j => answerAt s (2 * k + j)))
          (withEvents (i2cReadTransaction s.cfg.i2c (dI2c s) cs n.toNat (fun j => answerAt s (2 * k + j)))
            (afterAnswers (2 * k + 8 * n.toNat)
              { s with
                dp :=
                  dpAfterRead n.toNat s.cfg.i2c.lsbf 9 (fun j => answerAt s (2 * k + j))
                    (dpAfterAcked k s.dp)
                i2cs := { bus := .idle, sda := .rel, scl := .rel } })))))

/-- A failed bus write undoes nothing: whatever the target answers, the controller's commands finish with OK or ACKF, both engines
idle, the registers and WBUF they write written, and RXQ as the rules say (42_controller.md R243, R245, R249 to R251, R260;
44_backends.md R362 to R365). -/
def Obligations.RegisterWritesSurviveBusFailures : Prop :=
  ∀ s : State, bothIdle s →
    (∀ l : Byte, l.toNat < levels s.par s.ctlr.active →
      ∃ t, exec (.ctlSetBrightness l []) s = .next t ∧ BusEnded s t ∧ t.rxq = [] ∧ t.wbuf = s.wbuf ∧
        t.ctlr = { s.ctlr with bright := l }) ∧
    (∀ on : Bool,
      ∃ t, exec (.ctlSetPower on []) s = .next t ∧ BusEnded s t ∧ t.rxq = [] ∧ t.wbuf = s.wbuf ∧
        t.ctlr = { s.ctlr with power := on }) ∧
    (∀ n : Len,
      ∃ t, exec (.ctlReadRaw n []) s = .next t ∧ BusEnded s t ∧ t.wbuf = s.wbuf ∧ t.ctlr = s.ctlr ∧
        t.rxq.length = if t.status.rc = .ok ∧ s.ctlr.active ≠ .dummy ∧ busOf s.par s.ctlr.active ≠ .none then n.toNat
          else 0) ∧
    (∀ ws : List Word, ws.length ≤ 7 → s.ctlr.active = .led ∨ s.ctlr.active = .lcd →
      ∃ t, exec (.ctlWriteRaw (BitVec.ofNat 12 ws.length) (ws.flatMap (fun w => [w.extractLsb' 0 8, w.extractLsb' 8 8]))) s =
          .next t ∧ BusEnded s t ∧ t.ctlr = s.ctlr ∧ t.rxq = [BitVec.ofNat 8 ws.length] ∧
        t.wbuf = if s.ctlr.active = .led then physicalFrame s (Seven.ofFn (fun i => ws.getD i.val 0)) else s.wbuf) ∧
    (∀ (n : Len) (txp : List Byte), txp.length = n.toNat →
      (n.toNat = s.par.ddSize → s.ctlr.active = .led →
        ∃ t, exec (.ctlWriteDisplayFrame n txp) s = .next t ∧ BusEnded s t ∧ t.ctlr = s.ctlr ∧ t.rxq = [] ∧
          t.wbuf = physicalFrame s (displayFrame s (ddDecode s.par txp))) ∧
      (s.ctlr.active = .oledA ∨ s.ctlr.active = .oledB →
        (∃ t, exec (.oledCmd n txp) s = .next t ∧ BusEnded s t ∧ t.ctlr = s.ctlr ∧ t.rxq = [] ∧ t.wbuf = s.wbuf) ∧
        (∃ t, exec (.oledData n txp) s = .next t ∧ BusEnded s t ∧ t.ctlr = s.ctlr ∧ t.rxq = [] ∧ t.wbuf = s.wbuf) ∧
        (∃ t, exec (.oledClear []) s = .next t ∧ BusEnded s t ∧ t.ctlr = s.ctlr ∧ t.rxq = [] ∧ t.wbuf = s.wbuf) ∧
        (∀ c0 c1 p0 p1 : Byte, c0 ≤ c1 → c1.toNat < s.par.oledCols → p0 ≤ p1 → p1.toNat < s.par.oledBanks →
          n.toNat = (c1.toNat - c0.toNat + 1) * (p1.toNat - p0.toNat + 1) →
          ∃ t, exec (.oledWindow n (c0 :: c1 :: p0 :: p1 :: txp)) s = .next t ∧ BusEnded s t ∧ t.ctlr = s.ctlr ∧ t.rxq = [] ∧
            t.wbuf = s.wbuf)))

/-- The timing of the controller on LED over TW: 94 events and at least 37 phases for INIT, 650 and 260 for a frame write, 45 and 18
for brightness and power (70_reset_and_hazards.md R459). -/
def Obligations.LedControllerTiming : Prop :=
  ∀ (i : Instr) (s : State) (events phases : Nat),
    bothIdle s → s.par.brightCmd = [] → s.ctlr.active = .led → backendOf s.par s.ctlr.desc = .led → busOf s.par .led = .tw →
    (i = .ctlInit [] ∧ events = 94 ∧ phases = 37) ∨
      ((∃ (n : Len) (txp : List Byte), i = .ctlWriteRaw n txp ∧ txp.length = 2 * n.toNat ∧ n.toNat ≤ 7) ∧
        events = 650 ∧ phases = 260) ∨
      ((∃ (n : Len) (txp : List Byte), i = .ctlWriteDisplayFrame n txp ∧ txp.length = n.toNat ∧ n.toNat = s.par.ddSize) ∧
        events = 650 ∧ phases = 260) ∨
      ((∃ l : Byte, i = .ctlSetBrightness l [] ∧ l.toNat < 8) ∧ events = 45 ∧ phases = 18) ∨
      ((∃ on : Bool, i = .ctlSetPower on []) ∧ events = 45 ∧ phases = 18) →
    ∃ t es, exec i s = .next t ∧ t.trace = s.trace ++ es ∧ es.length = events ∧ duration es = phases * d3 s

/-- The OLED window port on an OLED backend, every byte acknowledged at once: the commands and data behind their control bytes; on
revision A one window command and one data burst, on revision B one page command and one row of data for each page; a clear covers
the panel on revision A and the whole RAM width of every page on revision B (44_backends.md R357, R359 to R365). The bytes of a
geometry that does not fit a byte, or is 0, are the model's (DEDUCED and DESIGN CHOICE, log entry 14). -/
def Obligations.OledPortAcknowledged : Prop :=
  ∀ (s : State) (run : List Cmd → State), s.i2cs = i2cClosed → s.tws.frame = .idle →
    s.ctlr.active = .oledA ∨ s.ctlr.active = .oledB → busOf s.par s.ctlr.active = .i2c →
    (∀ cmds, run cmds = acknowledgedRun cmds [] s) →
    (∀ (n : Len) (txp : List Byte), txp.length = n.toNat →
      (acksAtOnce s (runBytes s.cfg.i2c [.w [0x00] txp]) → exec (.oledCmd n txp) s = .next (run [.w [0x00] txp])) ∧
      (acksAtOnce s (runBytes s.cfg.i2c [.w [0x40] txp]) → exec (.oledData n txp) s = .next (run [.w [0x40] txp]))) ∧
    (∀ (n : Len) (c0 c1 p0 p1 : Byte) (data : List Byte) (cmds : List Cmd) (width : Nat),
      data.length = n.toNat → c0 ≤ c1 → c1.toNat < s.par.oledCols → p0 ≤ p1 → p1.toNat < s.par.oledBanks →
      n.toNat = (c1.toNat - c0.toNat + 1) * (p1.toNat - p0.toNat + 1) → width = c1.toNat - c0.toNat + 1 →
      (s.ctlr.active = .oledA → cmds = [.w [0x00] [0x21, c0, c1, 0x22, p0, p1], .w [0x40] data]) →
      (s.ctlr.active = .oledB → cmds = (List.range (p1.toNat - p0.toNat + 1)).flatMap (fun i =>
        [.w [0x00]
            [0xB0 ||| byteOfNat (p0.toNat + i), byteOfNat ((c0.toNat + s.par.oledColOff) % 16),
              0x10 ||| byteOfNat ((c0.toNat + s.par.oledColOff) / 16)],
          .w [0x40] ((data.drop (i * width)).take width)])) →
      acksAtOnce s (runBytes s.cfg.i2c cmds) →
      exec (.oledWindow n (c0 :: c1 :: p0 :: p1 :: data)) s = .next (run cmds)) ∧
    (∀ cmds : List Cmd,
      (s.ctlr.active = .oledA → cmds =
        [.w [0x00] [0x21, 0x00, byteOfNat (s.par.oledCols - 1), 0x22, 0x00, byteOfNat (s.par.oledBanks - 1)],
          .w [0x40] (List.replicate (s.par.oledCols * s.par.oledBanks) 0)]) →
      (s.ctlr.active = .oledB → cmds = (List.range s.par.oledBanks).flatMap (fun page =>
        [.w [0x00] [0xB0 ||| byteOfNat page, 0x00, 0x10], .w [0x40] (List.replicate s.par.oledRamCols 0)])) →
      acksAtOnce s (runBytes s.cfg.i2c cmds) → exec (.oledClear []) s = .next (run cmds))

/-! The layout datapath (43_layout.md). -/

/-- DP.TRANSPOSE8 returns the block with rows and columns exchanged, its own inverse, and the three XOR-swap passes compute the same;
in any bus state, with no effect but its result (R320 to R323). -/
def Obligations.TransposeExchangesRowsAndColumns : Prop :=
  (∀ (s : State) (b : Block), exec (.dpTranspose8 b.toList) s = .next (answered .ok (transpose8 b).toList s)) ∧
  (∀ (b : Block) (r c : Fin 8), ((transpose8 b).get r).getLsbD c.val = (b.get c).getLsbD r.val) ∧
  (∀ b : Block, transpose8 (transpose8 b) = b) ∧
  (∀ b : Block, transposeBySwaps b = transpose8 b)

/-- DP.SCATTER and DP.XF_DIRECT return the frame scattered by ORDER: the slot an entry names holds the word of the last position that
names it, and a slot no entry names holds 0 (R302, R303, R324, R325). -/
def Obligations.ScatterPutsWordsInTheirSlots : Prop :=
  (∀ (s : State) (l : Frame),
    exec (.dpScatter (frameBytes l)) s = .next (answered .ok (frameBytes (scatter l s.ctlr.order)) s) ∧
    exec (.dpXfDirect (frameBytes l)) s = .next (answered .ok (frameBytes (scatter l s.ctlr.order)) s)) ∧
  (∀ (l : Frame) (o : Seven (Fin 7)),
    (∀ i : Fin 7, (∀ j : Fin 7, i < j → o.get j ≠ o.get i) → (scatter l o).get (o.get i) = l.get i) ∧
    (∀ k : Fin 7, (∀ i : Fin 7, o.get i ≠ k) → (scatter l o).get k = 0))

/-- DP.XF_TRANSPOSED returns the transposed layout: the slot of position j holds segment j of every logical word, position c in bit c,
and zeros above; a slot no entry names holds 0 (R304, R326). -/
def Obligations.TransposedLayoutGathersSegments : Prop :=
  (∀ (s : State) (l : Frame),
    exec (.dpXfTransposed (frameBytes l)) s = .next (answered .ok (frameBytes (xfTransposed l s.ctlr.order)) s)) ∧
  (∀ (l : Frame) (o : Seven (Fin 7)),
    (∀ j : Fin 7, (∀ k : Fin 7, j < k → o.get k ≠ o.get j) →
      (∀ c : Fin 7, ((xfTransposed l o).get (o.get j)).getLsbD c.val = (l.get c).getLsbD j.val) ∧
      (∀ c : Nat, 7 ≤ c → ((xfTransposed l o).get (o.get j)).getLsbD c = false)) ∧
    (∀ k : Fin 7, (∀ i : Fin 7, o.get i ≠ k) → (xfTransposed l o).get k = 0))

/-- The transposed layout is undone by `untranspose`, but for bit 7 and the high byte of each word, where ORDER is a permutation
(R331). -/
def Obligations.TransposedLayoutIsInvertible : Prop :=
  ∀ (l : Frame) (o : Seven (Fin 7)), (∀ i j : Fin 7, o.get i = o.get j → i = j) →
    ∀ i : Fin 7, ((untranspose (xfTransposed l o) o).get i).setWidth 16 = l.get i &&& 0x007F

/-- DP.XF_NARROW5 scatters digits 1 to 5 alone, with bit 7 added to the colon's digit when the indicator word has the panel's colon
bit; DP.XF_MUXEXT scatters all seven words and copies bits 5, 6 and 7 of each to bits 11, 12 and 13 (R305, R306, R327, R328). -/
def Obligations.NarrowAndMuxLayouts : Prop :=
  ∀ (s : State) (l n : Frame),
    (n = Seven.ofFn (fun i =>
        if i = 0 ∨ i = 6 then 0
        else if l.a0 &&& dotMask s iconColon ≠ 0 ∧ i.val = s.par.narrowColon.val + 1 then l.get i ||| 0x0080
        else l.get i) →
      exec (.dpXfNarrow5 (frameBytes l)) s = .next (answered .ok (frameBytes (scatter n s.ctlr.order)) s)) ∧
    exec (.dpXfMuxext (frameBytes l)) s =
      .next (answered .ok (frameBytes ((scatter l s.ctlr.order).map (fun w : Word => w ||| ((w &&& 0x00E0) <<< 6)))) s) ∧
    (∀ (w : Word) (k : Nat),
      (w ||| ((w &&& 0x00E0) <<< 6)).getLsbD k = (w.getLsbD k || (decide (11 ≤ k ∧ k ≤ 13) && w.getLsbD (k - 6))))

/-- DP.CHAR_TO_MASK returns the glyph of a code, 0 for a code the table does not define; DP.LED_CLOCK returns the clock frame of a
time, with the colon in the indicator word and the seconds only where the descriptor shows them, and refuses a field out of range
(R308, R309, R329, R330). -/
def Obligations.GlyphsAndClockFrames : Prop :=
  ∀ (s : State) (glyph : Nat → Word),
    (∀ v, glyph v = ((s.par.glyph.lookup (BitVec.ofNat 8 (0x30 + v))).getD 0).setWidth 16) →
    (∀ code : Byte, exec (.dpCharToMask code []) s = .next (answered .ok [(s.par.glyph.lookup code).getD 0] s)) ∧
    (∀ (ss mm : BitVec 6) (colon : Bool) (hh : BitVec 5),
      (hh.toNat ≤ 23 → mm.toNat ≤ 59 → ss.toNat ≤ 59 →
        exec (.dpLedClock ss colon hh mm []) s = .next (answered .ok
          (frameBytes
            { a0 := if colon then dotMask s iconColon else 0
              a1 := glyph (hh.toNat / 10)
              a2 := glyph (hh.toNat % 10)
              a3 := glyph (mm.toNat / 10)
              a4 := glyph (mm.toNat % 10)
              a5 := if flag s .secsShown then glyph (ss.toNat / 10) else 0
              a6 := if flag s .secsShown then glyph (ss.toNat % 10) else 0 }) s)) ∧
      (23 < hh.toNat ∨ 59 < mm.toNat ∨ 59 < ss.toNat →
        exec (.dpLedClock ss colon hh mm []) s = .next (rejected .reject s)))

end
end

