-- ==== Sys2Proof/Laws/State.lean ====
section
/-! SUPPORT. One lemma per field for each update of the state, true by computation, so that no later proof unfolds a record
update. -/

namespace Sys2Proof.Machine

/-- Two states with equal fields are equal. -/
theorem State.eq_of_fields {s t : State} (dp : s.dp = t.dp) (seq : s.seq = t.seq) (i2cs : s.i2cs = t.i2cs)
    (tws : s.tws = t.tws) (status : s.status = t.status) (cfg : s.cfg = t.cfg) (ctlr : s.ctlr = t.ctlr)
    (wbuf : s.wbuf = t.wbuf) (rxq : s.rxq = t.rxq) (refused : s.refused = t.refused) (env : s.env = t.env)
    (par : s.par = t.par) : s = t := by
  cases s; cases t; simp_all

@[simp] theorem event_dp (e : Event) (s : State) : (event e s).dp = s.dp := rfl
@[simp] theorem event_seq (e : Event) (s : State) : (event e s).seq = s.seq := rfl
@[simp] theorem event_i2cs (e : Event) (s : State) : (event e s).i2cs = s.i2cs := rfl
@[simp] theorem event_tws (e : Event) (s : State) : (event e s).tws = s.tws := rfl
@[simp] theorem event_status (e : Event) (s : State) : (event e s).status = s.status := rfl
@[simp] theorem event_cfg (e : Event) (s : State) : (event e s).cfg = s.cfg := rfl
@[simp] theorem event_ctlr (e : Event) (s : State) : (event e s).ctlr = s.ctlr := rfl
@[simp] theorem event_wbuf (e : Event) (s : State) : (event e s).wbuf = s.wbuf := rfl
@[simp] theorem event_rxq (e : Event) (s : State) : (event e s).rxq = s.rxq := rfl
@[simp] theorem event_refused (e : Event) (s : State) : (event e s).refused = s.refused := rfl
@[simp] theorem event_env (e : Event) (s : State) : (event e s).env = { s.env with traceRev := e :: s.env.traceRev } := rfl
@[simp] theorem event_par (e : Event) (s : State) : (event e s).par = s.par := rfl

@[simp] theorem delay_dp (n : Nat) (s : State) : (delay n s).dp = s.dp := rfl
@[simp] theorem delay_seq (n : Nat) (s : State) : (delay n s).seq = s.seq := rfl
@[simp] theorem delay_i2cs (n : Nat) (s : State) : (delay n s).i2cs = s.i2cs := rfl
@[simp] theorem delay_tws (n : Nat) (s : State) : (delay n s).tws = s.tws := rfl
@[simp] theorem delay_status (n : Nat) (s : State) : (delay n s).status = s.status := rfl
@[simp] theorem delay_cfg (n : Nat) (s : State) : (delay n s).cfg = s.cfg := rfl
@[simp] theorem delay_ctlr (n : Nat) (s : State) : (delay n s).ctlr = s.ctlr := rfl
@[simp] theorem delay_wbuf (n : Nat) (s : State) : (delay n s).wbuf = s.wbuf := rfl
@[simp] theorem delay_rxq (n : Nat) (s : State) : (delay n s).rxq = s.rxq := rfl
@[simp] theorem delay_refused (n : Nat) (s : State) : (delay n s).refused = s.refused := rfl
@[simp] theorem delay_env (n : Nat) (s : State) :
    (delay n s).env = { s.env with traceRev := .delay n :: s.env.traceRev } := rfl
@[simp] theorem delay_par (n : Nat) (s : State) : (delay n s).par = s.par := rfl

@[simp] theorem loSda_dp (s : State) : (loSda s).dp = s.dp := rfl
@[simp] theorem loSda_seq (s : State) : (loSda s).seq = s.seq := rfl
@[simp] theorem loSda_i2cs (s : State) : (loSda s).i2cs = { s.i2cs with sda := .low } := rfl
@[simp] theorem loSda_tws (s : State) : (loSda s).tws = s.tws := rfl
@[simp] theorem loSda_status (s : State) : (loSda s).status = s.status := rfl
@[simp] theorem loSda_cfg (s : State) : (loSda s).cfg = s.cfg := rfl
@[simp] theorem loSda_ctlr (s : State) : (loSda s).ctlr = s.ctlr := rfl
@[simp] theorem loSda_wbuf (s : State) : (loSda s).wbuf = s.wbuf := rfl
@[simp] theorem loSda_rxq (s : State) : (loSda s).rxq = s.rxq := rfl
@[simp] theorem loSda_refused (s : State) : (loSda s).refused = s.refused := rfl
@[simp] theorem loSda_env (s : State) : (loSda s).env = { s.env with traceRev := .set .sda false :: s.env.traceRev } := rfl
@[simp] theorem loSda_par (s : State) : (loSda s).par = s.par := rfl

@[simp] theorem loScl_dp (s : State) : (loScl s).dp = s.dp := rfl
@[simp] theorem loScl_seq (s : State) : (loScl s).seq = s.seq := rfl
@[simp] theorem loScl_i2cs (s : State) : (loScl s).i2cs = { s.i2cs with scl := .low } := rfl
@[simp] theorem loScl_tws (s : State) : (loScl s).tws = s.tws := rfl
@[simp] theorem loScl_status (s : State) : (loScl s).status = s.status := rfl
@[simp] theorem loScl_cfg (s : State) : (loScl s).cfg = s.cfg := rfl
@[simp] theorem loScl_ctlr (s : State) : (loScl s).ctlr = s.ctlr := rfl
@[simp] theorem loScl_wbuf (s : State) : (loScl s).wbuf = s.wbuf := rfl
@[simp] theorem loScl_rxq (s : State) : (loScl s).rxq = s.rxq := rfl
@[simp] theorem loScl_refused (s : State) : (loScl s).refused = s.refused := rfl
@[simp] theorem loScl_env (s : State) : (loScl s).env = { s.env with traceRev := .set .scl false :: s.env.traceRev } := rfl
@[simp] theorem loScl_par (s : State) : (loScl s).par = s.par := rfl

@[simp] theorem relSda_dp (s : State) : (relSda s).dp = s.dp := rfl
@[simp] theorem relSda_seq (s : State) : (relSda s).seq = s.seq := rfl
@[simp] theorem relSda_i2cs (s : State) : (relSda s).i2cs = { s.i2cs with sda := .rel } := rfl
@[simp] theorem relSda_tws (s : State) : (relSda s).tws = s.tws := rfl
@[simp] theorem relSda_status (s : State) : (relSda s).status = s.status := rfl
@[simp] theorem relSda_cfg (s : State) : (relSda s).cfg = s.cfg := rfl
@[simp] theorem relSda_ctlr (s : State) : (relSda s).ctlr = s.ctlr := rfl
@[simp] theorem relSda_wbuf (s : State) : (relSda s).wbuf = s.wbuf := rfl
@[simp] theorem relSda_rxq (s : State) : (relSda s).rxq = s.rxq := rfl
@[simp] theorem relSda_refused (s : State) : (relSda s).refused = s.refused := rfl
@[simp] theorem relSda_env (s : State) : (relSda s).env = { s.env with traceRev := .setInput .sda :: s.env.traceRev } := rfl
@[simp] theorem relSda_par (s : State) : (relSda s).par = s.par := rfl

@[simp] theorem relScl_dp (s : State) : (relScl s).dp = s.dp := rfl
@[simp] theorem relScl_seq (s : State) : (relScl s).seq = s.seq := rfl
@[simp] theorem relScl_i2cs (s : State) : (relScl s).i2cs = { s.i2cs with scl := .rel } := rfl
@[simp] theorem relScl_tws (s : State) : (relScl s).tws = s.tws := rfl
@[simp] theorem relScl_status (s : State) : (relScl s).status = s.status := rfl
@[simp] theorem relScl_cfg (s : State) : (relScl s).cfg = s.cfg := rfl
@[simp] theorem relScl_ctlr (s : State) : (relScl s).ctlr = s.ctlr := rfl
@[simp] theorem relScl_wbuf (s : State) : (relScl s).wbuf = s.wbuf := rfl
@[simp] theorem relScl_rxq (s : State) : (relScl s).rxq = s.rxq := rfl
@[simp] theorem relScl_refused (s : State) : (relScl s).refused = s.refused := rfl
@[simp] theorem relScl_env (s : State) : (relScl s).env = { s.env with traceRev := .setInput .scl :: s.env.traceRev } := rfl
@[simp] theorem relScl_par (s : State) : (relScl s).par = s.par := rfl

@[simp] theorem setStb_dp (v : Bool) (s : State) : (setStb v s).dp = s.dp := rfl
@[simp] theorem setStb_seq (v : Bool) (s : State) : (setStb v s).seq = s.seq := rfl
@[simp] theorem setStb_i2cs (v : Bool) (s : State) : (setStb v s).i2cs = s.i2cs := rfl
@[simp] theorem setStb_tws (v : Bool) (s : State) : (setStb v s).tws = { s.tws with stb := .driven v } := rfl
@[simp] theorem setStb_status (v : Bool) (s : State) : (setStb v s).status = s.status := rfl
@[simp] theorem setStb_cfg (v : Bool) (s : State) : (setStb v s).cfg = s.cfg := rfl
@[simp] theorem setStb_ctlr (v : Bool) (s : State) : (setStb v s).ctlr = s.ctlr := rfl
@[simp] theorem setStb_wbuf (v : Bool) (s : State) : (setStb v s).wbuf = s.wbuf := rfl
@[simp] theorem setStb_rxq (v : Bool) (s : State) : (setStb v s).rxq = s.rxq := rfl
@[simp] theorem setStb_refused (v : Bool) (s : State) : (setStb v s).refused = s.refused := rfl
@[simp] theorem setStb_env (v : Bool) (s : State) :
    (setStb v s).env = { s.env with traceRev := .set .stb v :: s.env.traceRev } := rfl
@[simp] theorem setStb_par (v : Bool) (s : State) : (setStb v s).par = s.par := rfl

@[simp] theorem setClk_dp (v : Bool) (s : State) : (setClk v s).dp = s.dp := rfl
@[simp] theorem setClk_seq (v : Bool) (s : State) : (setClk v s).seq = s.seq := rfl
@[simp] theorem setClk_i2cs (v : Bool) (s : State) : (setClk v s).i2cs = s.i2cs := rfl
@[simp] theorem setClk_tws (v : Bool) (s : State) : (setClk v s).tws = { s.tws with clk := .driven v } := rfl
@[simp] theorem setClk_status (v : Bool) (s : State) : (setClk v s).status = s.status := rfl
@[simp] theorem setClk_cfg (v : Bool) (s : State) : (setClk v s).cfg = s.cfg := rfl
@[simp] theorem setClk_ctlr (v : Bool) (s : State) : (setClk v s).ctlr = s.ctlr := rfl
@[simp] theorem setClk_wbuf (v : Bool) (s : State) : (setClk v s).wbuf = s.wbuf := rfl
@[simp] theorem setClk_rxq (v : Bool) (s : State) : (setClk v s).rxq = s.rxq := rfl
@[simp] theorem setClk_refused (v : Bool) (s : State) : (setClk v s).refused = s.refused := rfl
@[simp] theorem setClk_env (v : Bool) (s : State) :
    (setClk v s).env = { s.env with traceRev := .set .clk v :: s.env.traceRev } := rfl
@[simp] theorem setClk_par (v : Bool) (s : State) : (setClk v s).par = s.par := rfl

@[simp] theorem setDio_dp (v : Bool) (s : State) : (setDio v s).dp = s.dp := rfl
@[simp] theorem setDio_seq (v : Bool) (s : State) : (setDio v s).seq = s.seq := rfl
@[simp] theorem setDio_i2cs (v : Bool) (s : State) : (setDio v s).i2cs = s.i2cs := rfl
@[simp] theorem setDio_tws (v : Bool) (s : State) : (setDio v s).tws = { s.tws with dio := .driven v } := rfl
@[simp] theorem setDio_status (v : Bool) (s : State) : (setDio v s).status = s.status := rfl
@[simp] theorem setDio_cfg (v : Bool) (s : State) : (setDio v s).cfg = s.cfg := rfl
@[simp] theorem setDio_ctlr (v : Bool) (s : State) : (setDio v s).ctlr = s.ctlr := rfl
@[simp] theorem setDio_wbuf (v : Bool) (s : State) : (setDio v s).wbuf = s.wbuf := rfl
@[simp] theorem setDio_rxq (v : Bool) (s : State) : (setDio v s).rxq = s.rxq := rfl
@[simp] theorem setDio_refused (v : Bool) (s : State) : (setDio v s).refused = s.refused := rfl
@[simp] theorem setDio_env (v : Bool) (s : State) :
    (setDio v s).env = { s.env with traceRev := .set .dio v :: s.env.traceRev } := rfl
@[simp] theorem setDio_par (v : Bool) (s : State) : (setDio v s).par = s.par := rfl

@[simp] theorem relDio_dp (s : State) : (relDio s).dp = s.dp := rfl
@[simp] theorem relDio_seq (s : State) : (relDio s).seq = s.seq := rfl
@[simp] theorem relDio_i2cs (s : State) : (relDio s).i2cs = s.i2cs := rfl
@[simp] theorem relDio_tws (s : State) : (relDio s).tws = { s.tws with dio := .input } := rfl
@[simp] theorem relDio_status (s : State) : (relDio s).status = s.status := rfl
@[simp] theorem relDio_cfg (s : State) : (relDio s).cfg = s.cfg := rfl
@[simp] theorem relDio_ctlr (s : State) : (relDio s).ctlr = s.ctlr := rfl
@[simp] theorem relDio_wbuf (s : State) : (relDio s).wbuf = s.wbuf := rfl
@[simp] theorem relDio_rxq (s : State) : (relDio s).rxq = s.rxq := rfl
@[simp] theorem relDio_refused (s : State) : (relDio s).refused = s.refused := rfl
@[simp] theorem relDio_env (s : State) : (relDio s).env = { s.env with traceRev := .setInput .dio :: s.env.traceRev } := rfl
@[simp] theorem relDio_par (s : State) : (relDio s).par = s.par := rfl

@[simp] theorem setTmo_dp (s : State) : (setTmo s).dp = s.dp := rfl
@[simp] theorem setTmo_seq (s : State) : (setTmo s).seq = s.seq := rfl
@[simp] theorem setTmo_i2cs (s : State) : (setTmo s).i2cs = s.i2cs := rfl
@[simp] theorem setTmo_tws (s : State) : (setTmo s).tws = s.tws := rfl
@[simp] theorem setTmo_status (s : State) : (setTmo s).status = { s.status with tmo := true } := rfl
@[simp] theorem setTmo_cfg (s : State) : (setTmo s).cfg = s.cfg := rfl
@[simp] theorem setTmo_ctlr (s : State) : (setTmo s).ctlr = s.ctlr := rfl
@[simp] theorem setTmo_wbuf (s : State) : (setTmo s).wbuf = s.wbuf := rfl
@[simp] theorem setTmo_rxq (s : State) : (setTmo s).rxq = s.rxq := rfl
@[simp] theorem setTmo_refused (s : State) : (setTmo s).refused = s.refused := rfl
@[simp] theorem setTmo_env (s : State) : (setTmo s).env = s.env := rfl
@[simp] theorem setTmo_par (s : State) : (setTmo s).par = s.par := rfl

@[simp] theorem countAck_dp (s : State) : (countAck s).dp = s.dp := rfl
@[simp] theorem countAck_seq (s : State) : (countAck s).seq = s.seq := rfl
@[simp] theorem countAck_i2cs (s : State) : (countAck s).i2cs = s.i2cs := rfl
@[simp] theorem countAck_tws (s : State) : (countAck s).tws = s.tws := rfl
@[simp] theorem countAck_status (s : State) :
    (countAck s).status = { s.status with acked := if s.status.acked = 4095 then s.status.acked else s.status.acked + 1 } := rfl
@[simp] theorem countAck_cfg (s : State) : (countAck s).cfg = s.cfg := rfl
@[simp] theorem countAck_ctlr (s : State) : (countAck s).ctlr = s.ctlr := rfl
@[simp] theorem countAck_wbuf (s : State) : (countAck s).wbuf = s.wbuf := rfl
@[simp] theorem countAck_rxq (s : State) : (countAck s).rxq = s.rxq := rfl
@[simp] theorem countAck_refused (s : State) : (countAck s).refused = s.refused := rfl
@[simp] theorem countAck_env (s : State) : (countAck s).env = s.env := rfl
@[simp] theorem countAck_par (s : State) : (countAck s).par = s.par := rfl

@[simp] theorem clearAcked_dp (s : State) : (clearAcked s).dp = s.dp := rfl
@[simp] theorem clearAcked_seq (s : State) : (clearAcked s).seq = s.seq := rfl
@[simp] theorem clearAcked_i2cs (s : State) : (clearAcked s).i2cs = s.i2cs := rfl
@[simp] theorem clearAcked_tws (s : State) : (clearAcked s).tws = s.tws := rfl
@[simp] theorem clearAcked_status (s : State) : (clearAcked s).status = { s.status with acked := 0 } := rfl
@[simp] theorem clearAcked_cfg (s : State) : (clearAcked s).cfg = s.cfg := rfl
@[simp] theorem clearAcked_ctlr (s : State) : (clearAcked s).ctlr = s.ctlr := rfl
@[simp] theorem clearAcked_wbuf (s : State) : (clearAcked s).wbuf = s.wbuf := rfl
@[simp] theorem clearAcked_rxq (s : State) : (clearAcked s).rxq = s.rxq := rfl
@[simp] theorem clearAcked_refused (s : State) : (clearAcked s).refused = s.refused := rfl
@[simp] theorem clearAcked_env (s : State) : (clearAcked s).env = s.env := rfl
@[simp] theorem clearAcked_par (s : State) : (clearAcked s).par = s.par := rfl

@[simp] theorem clearStatus_dp (s : State) : (clearStatus s).dp = s.dp := rfl
@[simp] theorem clearStatus_seq (s : State) : (clearStatus s).seq = s.seq := rfl
@[simp] theorem clearStatus_i2cs (s : State) : (clearStatus s).i2cs = s.i2cs := rfl
@[simp] theorem clearStatus_tws (s : State) : (clearStatus s).tws = s.tws := rfl
@[simp] theorem clearStatus_status (s : State) : (clearStatus s).status = { s.status with tmo := false, acked := 0 } := rfl
@[simp] theorem clearStatus_cfg (s : State) : (clearStatus s).cfg = s.cfg := rfl
@[simp] theorem clearStatus_ctlr (s : State) : (clearStatus s).ctlr = s.ctlr := rfl
@[simp] theorem clearStatus_wbuf (s : State) : (clearStatus s).wbuf = s.wbuf := rfl
@[simp] theorem clearStatus_rxq (s : State) : (clearStatus s).rxq = s.rxq := rfl
@[simp] theorem clearStatus_refused (s : State) : (clearStatus s).refused = s.refused := rfl
@[simp] theorem clearStatus_env (s : State) : (clearStatus s).env = s.env := rfl
@[simp] theorem clearStatus_par (s : State) : (clearStatus s).par = s.par := rfl

@[simp] theorem begin_dp (s : State) : (begin s).dp = s.dp := rfl
@[simp] theorem begin_seq (s : State) : (begin s).seq = .exec := rfl
@[simp] theorem begin_i2cs (s : State) : (begin s).i2cs = s.i2cs := rfl
@[simp] theorem begin_tws (s : State) : (begin s).tws = s.tws := rfl
@[simp] theorem begin_status (s : State) : (begin s).status = { s.status with tmo := false, acked := 0 } := rfl
@[simp] theorem begin_cfg (s : State) : (begin s).cfg = s.cfg := rfl
@[simp] theorem begin_ctlr (s : State) : (begin s).ctlr = s.ctlr := rfl
@[simp] theorem begin_wbuf (s : State) : (begin s).wbuf = s.wbuf := rfl
@[simp] theorem begin_rxq (s : State) : (begin s).rxq = [] := rfl
@[simp] theorem begin_refused (s : State) : (begin s).refused = s.refused := rfl
@[simp] theorem begin_env (s : State) : (begin s).env = s.env := rfl
@[simp] theorem begin_par (s : State) : (begin s).par = s.par := rfl

@[simp] theorem finished_dp (rc : RC) (s : State) : (finished rc s).dp = s.dp := rfl
@[simp] theorem finished_seq (rc : RC) (s : State) : (finished rc s).seq = .ready := rfl
@[simp] theorem finished_i2cs (rc : RC) (s : State) : (finished rc s).i2cs = s.i2cs := rfl
@[simp] theorem finished_tws (rc : RC) (s : State) : (finished rc s).tws = s.tws := rfl
@[simp] theorem finished_status (rc : RC) (s : State) : (finished rc s).status = { s.status with rc := rc } := rfl
@[simp] theorem finished_cfg (rc : RC) (s : State) : (finished rc s).cfg = s.cfg := rfl
@[simp] theorem finished_ctlr (rc : RC) (s : State) : (finished rc s).ctlr = s.ctlr := rfl
@[simp] theorem finished_wbuf (rc : RC) (s : State) : (finished rc s).wbuf = s.wbuf := rfl
@[simp] theorem finished_rxq (rc : RC) (s : State) : (finished rc s).rxq = s.rxq := rfl
@[simp] theorem finished_refused (rc : RC) (s : State) : (finished rc s).refused = s.refused := rfl
@[simp] theorem finished_env (rc : RC) (s : State) : (finished rc s).env = s.env := rfl
@[simp] theorem finished_par (rc : RC) (s : State) : (finished rc s).par = s.par := rfl

@[simp] theorem emit_dp (b : Byte) (s : State) : (emit b s).dp = s.dp := rfl
@[simp] theorem emit_seq (b : Byte) (s : State) : (emit b s).seq = s.seq := rfl
@[simp] theorem emit_i2cs (b : Byte) (s : State) : (emit b s).i2cs = s.i2cs := rfl
@[simp] theorem emit_tws (b : Byte) (s : State) : (emit b s).tws = s.tws := rfl
@[simp] theorem emit_status (b : Byte) (s : State) : (emit b s).status = s.status := rfl
@[simp] theorem emit_cfg (b : Byte) (s : State) : (emit b s).cfg = s.cfg := rfl
@[simp] theorem emit_ctlr (b : Byte) (s : State) : (emit b s).ctlr = s.ctlr := rfl
@[simp] theorem emit_wbuf (b : Byte) (s : State) : (emit b s).wbuf = s.wbuf := rfl
@[simp] theorem emit_rxq (b : Byte) (s : State) : (emit b s).rxq = s.rxq ++ [b] := rfl
@[simp] theorem emit_refused (b : Byte) (s : State) : (emit b s).refused = s.refused := rfl
@[simp] theorem emit_env (b : Byte) (s : State) : (emit b s).env = s.env := rfl
@[simp] theorem emit_par (b : Byte) (s : State) : (emit b s).par = s.par := rfl

@[simp] theorem emitAll_dp (bs : List Byte) (s : State) : (emitAll bs s).dp = s.dp := rfl
@[simp] theorem emitAll_seq (bs : List Byte) (s : State) : (emitAll bs s).seq = s.seq := rfl
@[simp] theorem emitAll_i2cs (bs : List Byte) (s : State) : (emitAll bs s).i2cs = s.i2cs := rfl
@[simp] theorem emitAll_tws (bs : List Byte) (s : State) : (emitAll bs s).tws = s.tws := rfl
@[simp] theorem emitAll_status (bs : List Byte) (s : State) : (emitAll bs s).status = s.status := rfl
@[simp] theorem emitAll_cfg (bs : List Byte) (s : State) : (emitAll bs s).cfg = s.cfg := rfl
@[simp] theorem emitAll_ctlr (bs : List Byte) (s : State) : (emitAll bs s).ctlr = s.ctlr := rfl
@[simp] theorem emitAll_wbuf (bs : List Byte) (s : State) : (emitAll bs s).wbuf = s.wbuf := rfl
@[simp] theorem emitAll_rxq (bs : List Byte) (s : State) : (emitAll bs s).rxq = s.rxq ++ bs := rfl
@[simp] theorem emitAll_refused (bs : List Byte) (s : State) : (emitAll bs s).refused = s.refused := rfl
@[simp] theorem emitAll_env (bs : List Byte) (s : State) : (emitAll bs s).env = s.env := rfl
@[simp] theorem emitAll_par (bs : List Byte) (s : State) : (emitAll bs s).par = s.par := rfl

@[simp] theorem wbufWrite_dp (k : Fin 7) (v : Word) (s : State) : (wbufWrite k v s).dp = s.dp := rfl
@[simp] theorem wbufWrite_seq (k : Fin 7) (v : Word) (s : State) : (wbufWrite k v s).seq = s.seq := rfl
@[simp] theorem wbufWrite_i2cs (k : Fin 7) (v : Word) (s : State) : (wbufWrite k v s).i2cs = s.i2cs := rfl
@[simp] theorem wbufWrite_tws (k : Fin 7) (v : Word) (s : State) : (wbufWrite k v s).tws = s.tws := rfl
@[simp] theorem wbufWrite_status (k : Fin 7) (v : Word) (s : State) : (wbufWrite k v s).status = s.status := rfl
@[simp] theorem wbufWrite_cfg (k : Fin 7) (v : Word) (s : State) : (wbufWrite k v s).cfg = s.cfg := rfl
@[simp] theorem wbufWrite_ctlr (k : Fin 7) (v : Word) (s : State) : (wbufWrite k v s).ctlr = s.ctlr := rfl
@[simp] theorem wbufWrite_wbuf (k : Fin 7) (v : Word) (s : State) : (wbufWrite k v s).wbuf = s.wbuf.set k v := rfl
@[simp] theorem wbufWrite_rxq (k : Fin 7) (v : Word) (s : State) : (wbufWrite k v s).rxq = s.rxq := rfl
@[simp] theorem wbufWrite_refused (k : Fin 7) (v : Word) (s : State) : (wbufWrite k v s).refused = s.refused := rfl
@[simp] theorem wbufWrite_env (k : Fin 7) (v : Word) (s : State) : (wbufWrite k v s).env = s.env := rfl
@[simp] theorem wbufWrite_par (k : Fin 7) (v : Word) (s : State) : (wbufWrite k v s).par = s.par := rfl

@[simp] theorem loadSr_dp (x : Byte) (s : State) : (loadSr x s).dp = { s.dp with sr := x, bitcnt := 0 } := rfl
@[simp] theorem loadSr_seq (x : Byte) (s : State) : (loadSr x s).seq = s.seq := rfl
@[simp] theorem loadSr_i2cs (x : Byte) (s : State) : (loadSr x s).i2cs = s.i2cs := rfl
@[simp] theorem loadSr_tws (x : Byte) (s : State) : (loadSr x s).tws = s.tws := rfl
@[simp] theorem loadSr_status (x : Byte) (s : State) : (loadSr x s).status = s.status := rfl
@[simp] theorem loadSr_cfg (x : Byte) (s : State) : (loadSr x s).cfg = s.cfg := rfl
@[simp] theorem loadSr_ctlr (x : Byte) (s : State) : (loadSr x s).ctlr = s.ctlr := rfl
@[simp] theorem loadSr_wbuf (x : Byte) (s : State) : (loadSr x s).wbuf = s.wbuf := rfl
@[simp] theorem loadSr_rxq (x : Byte) (s : State) : (loadSr x s).rxq = s.rxq := rfl
@[simp] theorem loadSr_refused (x : Byte) (s : State) : (loadSr x s).refused = s.refused := rfl
@[simp] theorem loadSr_env (x : Byte) (s : State) : (loadSr x s).env = s.env := rfl
@[simp] theorem loadSr_par (x : Byte) (s : State) : (loadSr x s).par = s.par := rfl

@[simp] theorem shiftSr_dp (x : Byte) (s : State) :
    (shiftSr x s).dp = { s.dp with sr := x, bitcnt := s.dp.bitcnt + 1 } := rfl
@[simp] theorem shiftSr_seq (x : Byte) (s : State) : (shiftSr x s).seq = s.seq := rfl
@[simp] theorem shiftSr_i2cs (x : Byte) (s : State) : (shiftSr x s).i2cs = s.i2cs := rfl
@[simp] theorem shiftSr_tws (x : Byte) (s : State) : (shiftSr x s).tws = s.tws := rfl
@[simp] theorem shiftSr_status (x : Byte) (s : State) : (shiftSr x s).status = s.status := rfl
@[simp] theorem shiftSr_cfg (x : Byte) (s : State) : (shiftSr x s).cfg = s.cfg := rfl
@[simp] theorem shiftSr_ctlr (x : Byte) (s : State) : (shiftSr x s).ctlr = s.ctlr := rfl
@[simp] theorem shiftSr_wbuf (x : Byte) (s : State) : (shiftSr x s).wbuf = s.wbuf := rfl
@[simp] theorem shiftSr_rxq (x : Byte) (s : State) : (shiftSr x s).rxq = s.rxq := rfl
@[simp] theorem shiftSr_refused (x : Byte) (s : State) : (shiftSr x s).refused = s.refused := rfl
@[simp] theorem shiftSr_env (x : Byte) (s : State) : (shiftSr x s).env = s.env := rfl
@[simp] theorem shiftSr_par (x : Byte) (s : State) : (shiftSr x s).par = s.par := rfl

@[simp] theorem countByte_dp (s : State) : (countByte s).dp = { s.dp with bytecnt := s.dp.bytecnt + 1 } := rfl
@[simp] theorem countByte_seq (s : State) : (countByte s).seq = s.seq := rfl
@[simp] theorem countByte_i2cs (s : State) : (countByte s).i2cs = s.i2cs := rfl
@[simp] theorem countByte_tws (s : State) : (countByte s).tws = s.tws := rfl
@[simp] theorem countByte_status (s : State) : (countByte s).status = s.status := rfl
@[simp] theorem countByte_cfg (s : State) : (countByte s).cfg = s.cfg := rfl
@[simp] theorem countByte_ctlr (s : State) : (countByte s).ctlr = s.ctlr := rfl
@[simp] theorem countByte_wbuf (s : State) : (countByte s).wbuf = s.wbuf := rfl
@[simp] theorem countByte_rxq (s : State) : (countByte s).rxq = s.rxq := rfl
@[simp] theorem countByte_refused (s : State) : (countByte s).refused = s.refused := rfl
@[simp] theorem countByte_env (s : State) : (countByte s).env = s.env := rfl
@[simp] theorem countByte_par (s : State) : (countByte s).par = s.par := rfl

@[simp] theorem clearByteCount_dp (s : State) : (clearByteCount s).dp = { s.dp with bytecnt := 0 } := rfl
@[simp] theorem clearByteCount_seq (s : State) : (clearByteCount s).seq = s.seq := rfl
@[simp] theorem clearByteCount_i2cs (s : State) : (clearByteCount s).i2cs = s.i2cs := rfl
@[simp] theorem clearByteCount_tws (s : State) : (clearByteCount s).tws = s.tws := rfl
@[simp] theorem clearByteCount_status (s : State) : (clearByteCount s).status = s.status := rfl
@[simp] theorem clearByteCount_cfg (s : State) : (clearByteCount s).cfg = s.cfg := rfl
@[simp] theorem clearByteCount_ctlr (s : State) : (clearByteCount s).ctlr = s.ctlr := rfl
@[simp] theorem clearByteCount_wbuf (s : State) : (clearByteCount s).wbuf = s.wbuf := rfl
@[simp] theorem clearByteCount_rxq (s : State) : (clearByteCount s).rxq = s.rxq := rfl
@[simp] theorem clearByteCount_refused (s : State) : (clearByteCount s).refused = s.refused := rfl
@[simp] theorem clearByteCount_env (s : State) : (clearByteCount s).env = s.env := rfl
@[simp] theorem clearByteCount_par (s : State) : (clearByteCount s).par = s.par := rfl

@[simp] theorem setTmocnt_dp (v : BitVec 16) (s : State) : (setTmocnt v s).dp = { s.dp with tmocnt := v } := rfl
@[simp] theorem setTmocnt_seq (v : BitVec 16) (s : State) : (setTmocnt v s).seq = s.seq := rfl
@[simp] theorem setTmocnt_i2cs (v : BitVec 16) (s : State) : (setTmocnt v s).i2cs = s.i2cs := rfl
@[simp] theorem setTmocnt_tws (v : BitVec 16) (s : State) : (setTmocnt v s).tws = s.tws := rfl
@[simp] theorem setTmocnt_status (v : BitVec 16) (s : State) : (setTmocnt v s).status = s.status := rfl
@[simp] theorem setTmocnt_cfg (v : BitVec 16) (s : State) : (setTmocnt v s).cfg = s.cfg := rfl
@[simp] theorem setTmocnt_ctlr (v : BitVec 16) (s : State) : (setTmocnt v s).ctlr = s.ctlr := rfl
@[simp] theorem setTmocnt_wbuf (v : BitVec 16) (s : State) : (setTmocnt v s).wbuf = s.wbuf := rfl
@[simp] theorem setTmocnt_rxq (v : BitVec 16) (s : State) : (setTmocnt v s).rxq = s.rxq := rfl
@[simp] theorem setTmocnt_refused (v : BitVec 16) (s : State) : (setTmocnt v s).refused = s.refused := rfl
@[simp] theorem setTmocnt_env (v : BitVec 16) (s : State) : (setTmocnt v s).env = s.env := rfl
@[simp] theorem setTmocnt_par (v : BitVec 16) (s : State) : (setTmocnt v s).par = s.par := rfl

@[simp] theorem twCountBit_dp (s : State) : (twCountBit s).dp = s.dp := rfl
@[simp] theorem twCountBit_seq (s : State) : (twCountBit s).seq = s.seq := rfl
@[simp] theorem twCountBit_i2cs (s : State) : (twCountBit s).i2cs = s.i2cs := rfl
@[simp] theorem twCountBit_tws (s : State) : (twCountBit s).tws = { s.tws with bitcnt := s.tws.bitcnt + 1 } := rfl
@[simp] theorem twCountBit_status (s : State) : (twCountBit s).status = s.status := rfl
@[simp] theorem twCountBit_cfg (s : State) : (twCountBit s).cfg = s.cfg := rfl
@[simp] theorem twCountBit_ctlr (s : State) : (twCountBit s).ctlr = s.ctlr := rfl
@[simp] theorem twCountBit_wbuf (s : State) : (twCountBit s).wbuf = s.wbuf := rfl
@[simp] theorem twCountBit_rxq (s : State) : (twCountBit s).rxq = s.rxq := rfl
@[simp] theorem twCountBit_refused (s : State) : (twCountBit s).refused = s.refused := rfl
@[simp] theorem twCountBit_env (s : State) : (twCountBit s).env = s.env := rfl
@[simp] theorem twCountBit_par (s : State) : (twCountBit s).par = s.par := rfl

@[simp] theorem setActive_dp (b : Backend) (s : State) : (setActive b s).dp = s.dp := rfl
@[simp] theorem setActive_seq (b : Backend) (s : State) : (setActive b s).seq = s.seq := rfl
@[simp] theorem setActive_i2cs (b : Backend) (s : State) : (setActive b s).i2cs = s.i2cs := rfl
@[simp] theorem setActive_tws (b : Backend) (s : State) : (setActive b s).tws = s.tws := rfl
@[simp] theorem setActive_status (b : Backend) (s : State) : (setActive b s).status = s.status := rfl
@[simp] theorem setActive_cfg (b : Backend) (s : State) : (setActive b s).cfg = s.cfg := rfl
@[simp] theorem setActive_ctlr (b : Backend) (s : State) : (setActive b s).ctlr = { s.ctlr with active := b } := rfl
@[simp] theorem setActive_wbuf (b : Backend) (s : State) : (setActive b s).wbuf = s.wbuf := rfl
@[simp] theorem setActive_rxq (b : Backend) (s : State) : (setActive b s).rxq = s.rxq := rfl
@[simp] theorem setActive_refused (b : Backend) (s : State) : (setActive b s).refused = s.refused := rfl
@[simp] theorem setActive_env (b : Backend) (s : State) : (setActive b s).env = s.env := rfl
@[simp] theorem setActive_par (b : Backend) (s : State) : (setActive b s).par = s.par := rfl

@[simp] theorem setBright_dp (l : Byte) (s : State) : (setBright l s).dp = s.dp := rfl
@[simp] theorem setBright_seq (l : Byte) (s : State) : (setBright l s).seq = s.seq := rfl
@[simp] theorem setBright_i2cs (l : Byte) (s : State) : (setBright l s).i2cs = s.i2cs := rfl
@[simp] theorem setBright_tws (l : Byte) (s : State) : (setBright l s).tws = s.tws := rfl
@[simp] theorem setBright_status (l : Byte) (s : State) : (setBright l s).status = s.status := rfl
@[simp] theorem setBright_cfg (l : Byte) (s : State) : (setBright l s).cfg = s.cfg := rfl
@[simp] theorem setBright_ctlr (l : Byte) (s : State) : (setBright l s).ctlr = { s.ctlr with bright := l } := rfl
@[simp] theorem setBright_wbuf (l : Byte) (s : State) : (setBright l s).wbuf = s.wbuf := rfl
@[simp] theorem setBright_rxq (l : Byte) (s : State) : (setBright l s).rxq = s.rxq := rfl
@[simp] theorem setBright_refused (l : Byte) (s : State) : (setBright l s).refused = s.refused := rfl
@[simp] theorem setBright_env (l : Byte) (s : State) : (setBright l s).env = s.env := rfl
@[simp] theorem setBright_par (l : Byte) (s : State) : (setBright l s).par = s.par := rfl

@[simp] theorem setPower_dp (on : Bool) (s : State) : (setPower on s).dp = s.dp := rfl
@[simp] theorem setPower_seq (on : Bool) (s : State) : (setPower on s).seq = s.seq := rfl
@[simp] theorem setPower_i2cs (on : Bool) (s : State) : (setPower on s).i2cs = s.i2cs := rfl
@[simp] theorem setPower_tws (on : Bool) (s : State) : (setPower on s).tws = s.tws := rfl
@[simp] theorem setPower_status (on : Bool) (s : State) : (setPower on s).status = s.status := rfl
@[simp] theorem setPower_cfg (on : Bool) (s : State) : (setPower on s).cfg = s.cfg := rfl
@[simp] theorem setPower_ctlr (on : Bool) (s : State) : (setPower on s).ctlr = { s.ctlr with power := on } := rfl
@[simp] theorem setPower_wbuf (on : Bool) (s : State) : (setPower on s).wbuf = s.wbuf := rfl
@[simp] theorem setPower_rxq (on : Bool) (s : State) : (setPower on s).rxq = s.rxq := rfl
@[simp] theorem setPower_refused (on : Bool) (s : State) : (setPower on s).refused = s.refused := rfl
@[simp] theorem setPower_env (on : Bool) (s : State) : (setPower on s).env = s.env := rfl
@[simp] theorem setPower_par (on : Bool) (s : State) : (setPower on s).par = s.par := rfl

@[simp] theorem setDesc_dp (d : BitVec 32) (s : State) : (setDesc d s).dp = s.dp := rfl
@[simp] theorem setDesc_seq (d : BitVec 32) (s : State) : (setDesc d s).seq = s.seq := rfl
@[simp] theorem setDesc_i2cs (d : BitVec 32) (s : State) : (setDesc d s).i2cs = s.i2cs := rfl
@[simp] theorem setDesc_tws (d : BitVec 32) (s : State) : (setDesc d s).tws = s.tws := rfl
@[simp] theorem setDesc_status (d : BitVec 32) (s : State) : (setDesc d s).status = s.status := rfl
@[simp] theorem setDesc_cfg (d : BitVec 32) (s : State) : (setDesc d s).cfg = s.cfg := rfl
@[simp] theorem setDesc_ctlr (d : BitVec 32) (s : State) :
    (setDesc d s).ctlr = { s.ctlr with desc := d, layout := layoutOf s.par d } := rfl
@[simp] theorem setDesc_wbuf (d : BitVec 32) (s : State) : (setDesc d s).wbuf = s.wbuf := rfl
@[simp] theorem setDesc_rxq (d : BitVec 32) (s : State) : (setDesc d s).rxq = s.rxq := rfl
@[simp] theorem setDesc_refused (d : BitVec 32) (s : State) : (setDesc d s).refused = s.refused := rfl
@[simp] theorem setDesc_env (d : BitVec 32) (s : State) : (setDesc d s).env = s.env := rfl
@[simp] theorem setDesc_par (d : BitVec 32) (s : State) : (setDesc d s).par = s.par := rfl

@[simp] theorem setIconMask_dp (m : Word) (s : State) : (setIconMask m s).dp = s.dp := rfl
@[simp] theorem setIconMask_seq (m : Word) (s : State) : (setIconMask m s).seq = s.seq := rfl
@[simp] theorem setIconMask_i2cs (m : Word) (s : State) : (setIconMask m s).i2cs = s.i2cs := rfl
@[simp] theorem setIconMask_tws (m : Word) (s : State) : (setIconMask m s).tws = s.tws := rfl
@[simp] theorem setIconMask_status (m : Word) (s : State) : (setIconMask m s).status = s.status := rfl
@[simp] theorem setIconMask_cfg (m : Word) (s : State) : (setIconMask m s).cfg = s.cfg := rfl
@[simp] theorem setIconMask_ctlr (m : Word) (s : State) : (setIconMask m s).ctlr = { s.ctlr with icon := m } := rfl
@[simp] theorem setIconMask_wbuf (m : Word) (s : State) : (setIconMask m s).wbuf = s.wbuf := rfl
@[simp] theorem setIconMask_rxq (m : Word) (s : State) : (setIconMask m s).rxq = s.rxq := rfl
@[simp] theorem setIconMask_refused (m : Word) (s : State) : (setIconMask m s).refused = s.refused := rfl
@[simp] theorem setIconMask_env (m : Word) (s : State) : (setIconMask m s).env = s.env := rfl
@[simp] theorem setIconMask_par (m : Word) (s : State) : (setIconMask m s).par = s.par := rfl

@[simp] theorem setMode_dp (v : Byte) (s : State) : (setMode v s).dp = s.dp := rfl
@[simp] theorem setMode_seq (v : Byte) (s : State) : (setMode v s).seq = s.seq := rfl
@[simp] theorem setMode_i2cs (v : Byte) (s : State) : (setMode v s).i2cs = s.i2cs := rfl
@[simp] theorem setMode_tws (v : Byte) (s : State) : (setMode v s).tws = s.tws := rfl
@[simp] theorem setMode_status (v : Byte) (s : State) : (setMode v s).status = s.status := rfl
@[simp] theorem setMode_cfg (v : Byte) (s : State) : (setMode v s).cfg = s.cfg := rfl
@[simp] theorem setMode_ctlr (v : Byte) (s : State) : (setMode v s).ctlr = { s.ctlr with mode := v } := rfl
@[simp] theorem setMode_wbuf (v : Byte) (s : State) : (setMode v s).wbuf = s.wbuf := rfl
@[simp] theorem setMode_rxq (v : Byte) (s : State) : (setMode v s).rxq = s.rxq := rfl
@[simp] theorem setMode_refused (v : Byte) (s : State) : (setMode v s).refused = s.refused := rfl
@[simp] theorem setMode_env (v : Byte) (s : State) : (setMode v s).env = s.env := rfl
@[simp] theorem setMode_par (v : Byte) (s : State) : (setMode v s).par = s.par := rfl

@[simp] theorem setOrder_dp (txp : List Byte) (s : State) : (setOrder txp s).dp = s.dp := rfl
@[simp] theorem setOrder_seq (txp : List Byte) (s : State) : (setOrder txp s).seq = s.seq := rfl
@[simp] theorem setOrder_i2cs (txp : List Byte) (s : State) : (setOrder txp s).i2cs = s.i2cs := rfl
@[simp] theorem setOrder_tws (txp : List Byte) (s : State) : (setOrder txp s).tws = s.tws := rfl
@[simp] theorem setOrder_status (txp : List Byte) (s : State) : (setOrder txp s).status = s.status := rfl
@[simp] theorem setOrder_cfg (txp : List Byte) (s : State) : (setOrder txp s).cfg = s.cfg := rfl
@[simp] theorem setOrder_ctlr (txp : List Byte) (s : State) :
    (setOrder txp s).ctlr = { s.ctlr with order := Seven.ofFn (fun i => orderEntry (txpByte txp i.val)) } := rfl
@[simp] theorem setOrder_wbuf (txp : List Byte) (s : State) : (setOrder txp s).wbuf = s.wbuf := rfl
@[simp] theorem setOrder_rxq (txp : List Byte) (s : State) : (setOrder txp s).rxq = s.rxq := rfl
@[simp] theorem setOrder_refused (txp : List Byte) (s : State) : (setOrder txp s).refused = s.refused := rfl
@[simp] theorem setOrder_env (txp : List Byte) (s : State) : (setOrder txp s).env = s.env := rfl
@[simp] theorem setOrder_par (txp : List Byte) (s : State) : (setOrder txp s).par = s.par := rfl

@[simp] theorem reloadDefaults_dp (s : State) : (reloadDefaults s).dp = s.dp := rfl
@[simp] theorem reloadDefaults_seq (s : State) : (reloadDefaults s).seq = s.seq := rfl
@[simp] theorem reloadDefaults_i2cs (s : State) : (reloadDefaults s).i2cs = s.i2cs := rfl
@[simp] theorem reloadDefaults_tws (s : State) : (reloadDefaults s).tws = s.tws := rfl
@[simp] theorem reloadDefaults_status (s : State) : (reloadDefaults s).status = s.status := rfl
@[simp] theorem reloadDefaults_cfg (s : State) : (reloadDefaults s).cfg = { s.cfg with i2c := s.par.i2c } := rfl
@[simp] theorem reloadDefaults_ctlr (s : State) : (reloadDefaults s).ctlr = 
      { desc := s.par.defaultDesc, order := s.par.defaultOrder, bright := s.par.brightReset, power := s.par.powerReset,
        icon := 0, mode := 0, active := s.ctlr.active, layout := layoutOf s.par s.par.defaultDesc } := rfl
@[simp] theorem reloadDefaults_wbuf (s : State) : (reloadDefaults s).wbuf = s.wbuf := rfl
@[simp] theorem reloadDefaults_rxq (s : State) : (reloadDefaults s).rxq = s.rxq := rfl
@[simp] theorem reloadDefaults_refused (s : State) : (reloadDefaults s).refused = s.refused := rfl
@[simp] theorem reloadDefaults_env (s : State) : (reloadDefaults s).env = s.env := rfl
@[simp] theorem reloadDefaults_par (s : State) : (reloadDefaults s).par = s.par := rfl

@[simp] theorem layOut_dp (raw : Frame) (s : State) : (layOut raw s).dp = s.dp := rfl
@[simp] theorem layOut_seq (raw : Frame) (s : State) : (layOut raw s).seq = s.seq := rfl
@[simp] theorem layOut_i2cs (raw : Frame) (s : State) : (layOut raw s).i2cs = s.i2cs := rfl
@[simp] theorem layOut_tws (raw : Frame) (s : State) : (layOut raw s).tws = s.tws := rfl
@[simp] theorem layOut_status (raw : Frame) (s : State) : (layOut raw s).status = s.status := rfl
@[simp] theorem layOut_cfg (raw : Frame) (s : State) : (layOut raw s).cfg = s.cfg := rfl
@[simp] theorem layOut_ctlr (raw : Frame) (s : State) : (layOut raw s).ctlr = s.ctlr := rfl
@[simp] theorem layOut_wbuf (raw : Frame) (s : State) : (layOut raw s).wbuf = transform s (mergeIcons s.ctlr.icon raw) := rfl
@[simp] theorem layOut_rxq (raw : Frame) (s : State) : (layOut raw s).rxq = s.rxq := rfl
@[simp] theorem layOut_refused (raw : Frame) (s : State) : (layOut raw s).refused = s.refused := rfl
@[simp] theorem layOut_env (raw : Frame) (s : State) : (layOut raw s).env = s.env := rfl
@[simp] theorem layOut_par (raw : Frame) (s : State) : (layOut raw s).par = s.par := rfl

@[simp] theorem dropInput_dp (s : State) : (dropInput s).dp = s.dp := rfl
@[simp] theorem dropInput_seq (s : State) : (dropInput s).seq = s.seq := rfl
@[simp] theorem dropInput_i2cs (s : State) : (dropInput s).i2cs = s.i2cs := rfl
@[simp] theorem dropInput_tws (s : State) : (dropInput s).tws = s.tws := rfl
@[simp] theorem dropInput_status (s : State) : (dropInput s).status = s.status := rfl
@[simp] theorem dropInput_cfg (s : State) : (dropInput s).cfg = s.cfg := rfl
@[simp] theorem dropInput_ctlr (s : State) : (dropInput s).ctlr = s.ctlr := rfl
@[simp] theorem dropInput_wbuf (s : State) : (dropInput s).wbuf = s.wbuf := rfl
@[simp] theorem dropInput_rxq (s : State) : (dropInput s).rxq = s.rxq := rfl
@[simp] theorem dropInput_refused (s : State) : (dropInput s).refused = s.refused := rfl
@[simp] theorem dropInput_env (s : State) : (dropInput s).env = { s.env with inbox := s.env.inbox.tail } := rfl
@[simp] theorem dropInput_par (s : State) : (dropInput s).par = s.par := rfl

@[simp] theorem withEvents_dp (es : List Event) (s : State) : (withEvents es s).dp = s.dp := rfl
@[simp] theorem withEvents_seq (es : List Event) (s : State) : (withEvents es s).seq = s.seq := rfl
@[simp] theorem withEvents_i2cs (es : List Event) (s : State) : (withEvents es s).i2cs = s.i2cs := rfl
@[simp] theorem withEvents_tws (es : List Event) (s : State) : (withEvents es s).tws = s.tws := rfl
@[simp] theorem withEvents_status (es : List Event) (s : State) : (withEvents es s).status = s.status := rfl
@[simp] theorem withEvents_cfg (es : List Event) (s : State) : (withEvents es s).cfg = s.cfg := rfl
@[simp] theorem withEvents_ctlr (es : List Event) (s : State) : (withEvents es s).ctlr = s.ctlr := rfl
@[simp] theorem withEvents_wbuf (es : List Event) (s : State) : (withEvents es s).wbuf = s.wbuf := rfl
@[simp] theorem withEvents_rxq (es : List Event) (s : State) : (withEvents es s).rxq = s.rxq := rfl
@[simp] theorem withEvents_refused (es : List Event) (s : State) : (withEvents es s).refused = s.refused := rfl
@[simp] theorem withEvents_env (es : List Event) (s : State) :
    (withEvents es s).env = { s.env with traceRev := es.reverse ++ s.env.traceRev } := rfl
@[simp] theorem withEvents_par (es : List Event) (s : State) : (withEvents es s).par = s.par := rfl

@[simp] theorem afterAnswers_dp (k : Nat) (s : State) : (afterAnswers k s).dp = s.dp := rfl
@[simp] theorem afterAnswers_seq (k : Nat) (s : State) : (afterAnswers k s).seq = s.seq := rfl
@[simp] theorem afterAnswers_i2cs (k : Nat) (s : State) : (afterAnswers k s).i2cs = s.i2cs := rfl
@[simp] theorem afterAnswers_tws (k : Nat) (s : State) : (afterAnswers k s).tws = s.tws := rfl
@[simp] theorem afterAnswers_status (k : Nat) (s : State) : (afterAnswers k s).status = s.status := rfl
@[simp] theorem afterAnswers_cfg (k : Nat) (s : State) : (afterAnswers k s).cfg = s.cfg := rfl
@[simp] theorem afterAnswers_ctlr (k : Nat) (s : State) : (afterAnswers k s).ctlr = s.ctlr := rfl
@[simp] theorem afterAnswers_wbuf (k : Nat) (s : State) : (afterAnswers k s).wbuf = s.wbuf := rfl
@[simp] theorem afterAnswers_rxq (k : Nat) (s : State) : (afterAnswers k s).rxq = s.rxq := rfl
@[simp] theorem afterAnswers_refused (k : Nat) (s : State) : (afterAnswers k s).refused = s.refused := rfl
@[simp] theorem afterAnswers_env (k : Nat) (s : State) :
    (afterAnswers k s).env = { s.env with answers := s.env.answers.drop k, reads := s.env.reads + k } := rfl
@[simp] theorem afterAnswers_par (k : Nat) (s : State) : (afterAnswers k s).par = s.par := rfl

@[simp] theorem rejected_dp (rc : RC) (s : State) : (rejected rc s).dp = s.dp := rfl
@[simp] theorem rejected_seq (rc : RC) (s : State) : (rejected rc s).seq = .ready := rfl
@[simp] theorem rejected_i2cs (rc : RC) (s : State) : (rejected rc s).i2cs = s.i2cs := rfl
@[simp] theorem rejected_tws (rc : RC) (s : State) : (rejected rc s).tws = s.tws := rfl
@[simp] theorem rejected_status (rc : RC) (s : State) :
    (rejected rc s).status = { rc := rc, tmo := false, acked := 0 } := rfl
@[simp] theorem rejected_cfg (rc : RC) (s : State) : (rejected rc s).cfg = s.cfg := rfl
@[simp] theorem rejected_ctlr (rc : RC) (s : State) : (rejected rc s).ctlr = s.ctlr := rfl
@[simp] theorem rejected_wbuf (rc : RC) (s : State) : (rejected rc s).wbuf = s.wbuf := rfl
@[simp] theorem rejected_rxq (rc : RC) (s : State) : (rejected rc s).rxq = [] := rfl
@[simp] theorem rejected_refused (rc : RC) (s : State) : (rejected rc s).refused = s.refused := rfl
@[simp] theorem rejected_env (rc : RC) (s : State) : (rejected rc s).env = s.env := rfl
@[simp] theorem rejected_par (rc : RC) (s : State) : (rejected rc s).par = s.par := rfl

@[simp] theorem answered_dp (rc : RC) (bytes : List Byte) (s : State) : (answered rc bytes s).dp = s.dp := rfl
@[simp] theorem answered_seq (rc : RC) (bytes : List Byte) (s : State) : (answered rc bytes s).seq = .ready := rfl
@[simp] theorem answered_i2cs (rc : RC) (bytes : List Byte) (s : State) : (answered rc bytes s).i2cs = s.i2cs := rfl
@[simp] theorem answered_tws (rc : RC) (bytes : List Byte) (s : State) : (answered rc bytes s).tws = s.tws := rfl
@[simp] theorem answered_status (rc : RC) (bytes : List Byte) (s : State) :
    (answered rc bytes s).status = { rc := rc, tmo := false, acked := 0 } := rfl
@[simp] theorem answered_cfg (rc : RC) (bytes : List Byte) (s : State) : (answered rc bytes s).cfg = s.cfg := rfl
@[simp] theorem answered_ctlr (rc : RC) (bytes : List Byte) (s : State) : (answered rc bytes s).ctlr = s.ctlr := rfl
@[simp] theorem answered_wbuf (rc : RC) (bytes : List Byte) (s : State) : (answered rc bytes s).wbuf = s.wbuf := rfl
@[simp] theorem answered_rxq (rc : RC) (bytes : List Byte) (s : State) : (answered rc bytes s).rxq = bytes := rfl
@[simp] theorem answered_refused (rc : RC) (bytes : List Byte) (s : State) : (answered rc bytes s).refused = s.refused := rfl
@[simp] theorem answered_env (rc : RC) (bytes : List Byte) (s : State) : (answered rc bytes s).env = s.env := rfl
@[simp] theorem answered_par (rc : RC) (bytes : List Byte) (s : State) : (answered rc bytes s).par = s.par := rfl

@[simp] theorem readPin_dp (p : Pin) (s : State) : (readPin p s).2.dp = s.dp := rfl
@[simp] theorem readPin_seq (p : Pin) (s : State) : (readPin p s).2.seq = s.seq := rfl
@[simp] theorem readPin_i2cs (p : Pin) (s : State) : (readPin p s).2.i2cs = s.i2cs := rfl
@[simp] theorem readPin_tws (p : Pin) (s : State) : (readPin p s).2.tws = s.tws := rfl
@[simp] theorem readPin_status (p : Pin) (s : State) : (readPin p s).2.status = s.status := rfl
@[simp] theorem readPin_cfg (p : Pin) (s : State) : (readPin p s).2.cfg = s.cfg := rfl
@[simp] theorem readPin_ctlr (p : Pin) (s : State) : (readPin p s).2.ctlr = s.ctlr := rfl
@[simp] theorem readPin_wbuf (p : Pin) (s : State) : (readPin p s).2.wbuf = s.wbuf := rfl
@[simp] theorem readPin_rxq (p : Pin) (s : State) : (readPin p s).2.rxq = s.rxq := rfl
@[simp] theorem readPin_refused (p : Pin) (s : State) : (readPin p s).2.refused = s.refused := rfl
@[simp] theorem readPin_env (p : Pin) (s : State) : (readPin p s).2.env = 
      { s.env with
        answers := s.env.answers.tail
        reads := s.env.reads + 1
        traceRev := .read p (nextAnswer s) :: s.env.traceRev } := rfl
@[simp] theorem readPin_par (p : Pin) (s : State) : (readPin p s).2.par = s.par := rfl
@[simp] theorem readPin_answer (p : Pin) (s : State) : (readPin p s).1 = nextAnswer s := rfl

@[simp] theorem hostReset_env (s : State) : (hostReset s).env = s.env := rfl
@[simp] theorem hostReset_par (s : State) : (hostReset s).par = s.par := rfl
@[simp] theorem hostReset_seq (s : State) : (hostReset s).seq = .ready := rfl
@[simp] theorem hostReset_refused (s : State) : (hostReset s).refused = false := rfl

end Sys2Proof.Machine
end

