-- ==== Sys2Proof/Laws/Wire.lean ====
section
/-! SUPPORT. The algebra of the trace and of the oracle's answers: appending events, taking answers, sampling a pin. -/

namespace Sys2Proof.Machine

@[simp] theorem withEvents_nil (s : State) : withEvents [] s = s := rfl

@[simp] theorem withEvents_withEvents (a b : List Event) (s : State) :
    withEvents b (withEvents a s) = withEvents (a ++ b) s := by
  simp [withEvents]

@[simp] theorem afterAnswers_zero (s : State) : afterAnswers 0 s = s := rfl

@[simp] theorem afterAnswers_afterAnswers (j k : Nat) (s : State) :
    afterAnswers k (afterAnswers j s) = afterAnswers (j + k) s := by
  simp [afterAnswers, Nat.add_assoc]

@[simp] theorem afterAnswers_withEvents (k : Nat) (es : List Event) (s : State) :
    afterAnswers k (withEvents es s) = withEvents es (afterAnswers k s) := rfl

@[simp] theorem answerAt_withEvents (es : List Event) (s : State) (k : Nat) : answerAt (withEvents es s) k = answerAt s k := rfl

@[simp] theorem answerAt_afterAnswers (j : Nat) (s : State) (k : Nat) :
    answerAt (afterAnswers j s) k = answerAt s (j + k) := by
  simp [answerAt, afterAnswers, Nat.add_assoc]

/-- The answers depend on the environment alone. -/
theorem answerAt_congr {s t : State} (answers : t.env.answers = s.env.answers) (reads : t.env.reads = s.env.reads) (k : Nat) :
    answerAt t k = answerAt s k := by
  simp [answerAt, answers, reads]

/-- Registers do not change the answers. -/
@[simp] theorem answerAt_registers (s : State) (dp : Datapath) (seq : Phase) (i2cs : I2cState) (tws : TwState)
    (status : Status) (cfg : EngineCfg) (ctlr : Ctlr) (wbuf : Frame) (rxq : List Byte) (refused : Bool) (par : Params)
    (k : Nat) : answerAt ⟨dp, seq, i2cs, tws, status, cfg, ctlr, wbuf, rxq, refused, s.env, par⟩ k = answerAt s k := rfl

theorem nextAnswer_eq (s : State) : nextAnswer s = answerAt s 0 := by
  unfold nextAnswer answerAt
  cases h : s.env.answers <;> simp

/-- Sampling a pin takes one answer and appends one event. -/
theorem readPin_eq (p : Pin) (s : State) :
    readPin p s = (answerAt s 0, withEvents [.read p (answerAt s 0)] (afterAnswers 1 s)) := by
  simp [readPin, nextAnswer_eq, withEvents, afterAnswers]

theorem event_eq (e : Event) (s : State) : event e s = withEvents [e] s := rfl

theorem delay_eq (n : Nat) (s : State) : delay n s = withEvents [.delay n] s := rfl

@[simp] theorem withEvents_trace (es : List Event) (s : State) : (withEvents es s).trace = s.trace ++ es := by
  simp [State.trace]

@[simp] theorem afterAnswers_trace (k : Nat) (s : State) : (afterAnswers k s).trace = s.trace := rfl

@[simp] theorem eventDuration_delay (n : Nat) : eventDuration (.delay n) = n := rfl

@[simp] theorem eventDuration_set (p : Pin) (v : Bool) : eventDuration (.set p v) = 0 := rfl

@[simp] theorem eventDuration_setInput (p : Pin) : eventDuration (.setInput p) = 0 := rfl

@[simp] theorem eventDuration_read (p : Pin) (v : Bool) : eventDuration (.read p v) = 0 := rfl

@[simp] theorem duration_nil : duration [] = 0 := rfl

@[simp] theorem duration_cons (e : Event) (es : List Event) :
    duration (e :: es) = eventDuration e + duration es := by
  simp [duration]

@[simp] theorem duration_append (a b : List Event) : duration (a ++ b) = duration a + duration b := by
  simp [duration]

theorem bitsLow_length (x : Byte) : (bitsLow x).length = 8 := rfl

theorem bitsIn_length (lsb : Bool) (x : Byte) : (bitsIn lsb x).length = 8 := by
  cases lsb <;> rfl

end Sys2Proof.Machine
end

