-- ==== Sys2Proof/Laws/Tw.lean ====
section
/-! SUPPORT. What each procedure of the 3-wire engine does, once, as one equation: the events it emits, the answers it takes
and the registers it leaves (40_threewire.md R142 to R154). -/

namespace Sys2Proof.Machine

@[simp] theorem d3_withEvents (es : List Event) (s : State) : d3 (withEvents es s) = d3 s := rfl

@[simp] theorem d3_afterAnswers (k : Nat) (s : State) : d3 (afterAnswers k s) = d3 s := rfl

/-- Eight bit phases bring TW_BITCNT back. -/
theorem bitcnt_eight (x : BitVec 3) : x + 1#3 + 1#3 + 1#3 + 1#3 + 1#3 + 1#3 + 1#3 + 1#3 = x := by
  revert x; decide

/-- Eight shifts empty SR. -/
theorem shiftRight_eight (x : Byte) : x >>> 8 = 0#8 := by
  apply BitVec.eq_of_toNat_eq
  have := x.isLt
  simpa [Nat.shiftRight_eq_div_pow] using this

theorem shiftLeft_eight (x : Byte) : x <<< 8 = 0#8 := by
  apply BitVec.eq_of_toNat_eq
  simp

/-- `tw_begin` (R142). -/
theorem twBegin_eq (s : State) :
    twBegin s = withEvents (twOpenEvents (d3 s))
      { s with tws := { s.tws with stb := .driven false, frame := .opened, bitcnt := 0 } } := rfl

/-- `tw_end` (R143). -/
theorem twEnd_eq (s : State) :
    twEnd s = withEvents (twCloseEvents (d3 s))
      { s with tws := { s.tws with stb := .driven true, dio := .input, dir := .input, frame := .idle, bitcnt := 0 } } := rfl

/-- `tw_txbit` (R144). -/
theorem twTxBit_eq (b : Bool) (s : State) :
    twTxBit b s = withEvents (twBitEvents (d3 s) b)
      { s with tws := { s.tws with clk := .driven true, dio := .driven b, bitcnt := s.tws.bitcnt + 1 } } := rfl

/-- `tw_rxbit` (R145). -/
theorem twRxBit_eq (s : State) :
    twRxBit s = (answerAt s 0, withEvents (twSampleEvents (d3 s) (answerAt s 0))
      (afterAnswers 1 { s with tws := { s.tws with clk := .driven true, bitcnt := s.tws.bitcnt + 1 } })) := by
  simp only [twRxBit, readPin_eq]
  rfl

/-- `tw_txbyte` (R146). -/
theorem twTxByte_eq (x : Byte) (s : State) :
    twTxByte x s = withEvents (twByteEvents (d3 s) x)
      { s with
        dp := { s.dp with sr := 0, bitcnt := 8, bytecnt := s.dp.bytecnt + 1 }
        tws := { s.tws with clk := .driven true, dio := .driven (x.getLsbD 7) } } := by
  apply State.eq_of_fields <;>
    simp [twTxByte, twTxBits, twTxBit_eq, bitcnt_eight, shiftRight_eight, twByteEvents, bitsLow, twBitEvents, d3]

/-- Eight bits by position. -/
def eightBits (b0 b1 b2 b3 b4 b5 b6 b7 : Bool) (i : Nat) : Bool :=
  match i with
  | 0 => b0
  | 1 => b1
  | 2 => b2
  | 3 => b3
  | 4 => b4
  | 5 => b5
  | 6 => b6
  | _ => b7

/-- Eight samples from the top make the byte of 20_memory.md R87. -/
theorem shiftInTop_eight (b0 b1 b2 b3 b4 b5 b6 b7 : Bool) :
    shiftInTop (shiftInTop (shiftInTop (shiftInTop (shiftInTop (shiftInTop (shiftInTop (shiftInTop 0 b0) b1) b2) b3) b4) b5) b6)
      b7 = byteSampled true (eightBits b0 b1 b2 b3 b4 b5 b6 b7) := by
  revert b0 b1 b2 b3 b4 b5 b6 b7; decide

theorem byteSampled_eightBits (lsb : Bool) (f : Nat → Bool) :
    byteSampled lsb f = byteSampled lsb (eightBits (f 0) (f 1) (f 2) (f 3) (f 4) (f 5) (f 6) (f 7)) := by
  cases lsb <;> rfl

/-- A sampled byte depends on its eight samples alone. -/
theorem byteSampled_congr {lsb : Bool} {f g : Nat → Bool} (h : ∀ i, i < 8 → f i = g i) :
    byteSampled lsb f = byteSampled lsb g := by
  cases lsb <;> simp [byteSampled, byteOfBits, h]

/-- `tw_rxbyte` (R147). -/
theorem twRxByte_eq (s : State) :
    twRxByte s = (byteSampled true (answerAt s),
      withEvents ((List.range 8).flatMap (fun i => twSampleEvents (d3 s) (answerAt s i)))
        (afterAnswers 8
          { s with
            dp := { s.dp with sr := byteSampled true (answerAt s), bitcnt := 8, bytecnt := s.dp.bytecnt + 1 }
            tws := { s.tws with clk := .driven true } })) := by
  rw [byteSampled_eightBits, ← shiftInTop_eight]
  unfold twRxByte
  refine Prod.ext ?_ (State.eq_of_fields ?_ ?_ ?_ ?_ ?_ ?_ ?_ ?_ ?_ ?_ ?_ ?_) <;>
    simp [twRxBits, twRxBit_eq, bitcnt_eight, twSampleEvents, d3, List.range, List.range.loop, answerAt, Nat.add_assoc]

@[simp] theorem dpAfterSent_zero (dp : Datapath) : dpAfterSent 0 dp = dp := rfl

theorem dpAfterSent_succ (n : Nat) (dp : Datapath) :
    dpAfterSent (n + 1) dp =
      { dp with sr := 0, bitcnt := 8, bytecnt := dp.bytecnt + BitVec.ofNat 12 (n + 1) } := rfl

theorem ofNat_succ (n : Nat) : BitVec.ofNat 12 (n + 1) = 1#12 + BitVec.ofNat 12 n := by
  rw [Nat.add_comm, BitVec.ofNat_add]

theorem dpAfterSent_step (n : Nat) (dp : Datapath) :
    dpAfterSent n { sr := 0#8, bitcnt := 8#4, bytecnt := dp.bytecnt + 1#12, tmocnt := dp.tmocnt } = dpAfterSent (n + 1) dp := by
  cases n with
  | zero => rfl
  | succ n =>
    simp only [dpAfterSent_succ]
    rw [ofNat_succ (n + 1), BitVec.add_assoc]

/-- DIO after transmitted bytes: the last bit of the last byte. -/
def dioAfter (bs : List Byte) (dio : TwDrive) : TwDrive :=
  match bs with
  | [] => dio
  | b :: bs => dioAfter bs (.driven (b.getLsbD 7))

/-- `tw_txbyte` of each byte in order. -/
theorem twTxAll_eq (bs : List Byte) (s : State) :
    twTxAll bs s = withEvents (bs.flatMap (twByteEvents (d3 s)))
      { s with
        dp := dpAfterSent bs.length s.dp
        tws := { s.tws with clk := clkAfter bs.length s.tws.clk, dio := dioAfter bs s.tws.dio } } := by
  induction bs generalizing s with
  | nil => rfl
  | cons b bs ih =>
    rw [twTxAll, twTxByte_eq, ih]
    have clk : clkAfter bs.length (.driven true) = clkAfter (b :: bs).length s.tws.clk := by
      simp [clkAfter]
    apply State.eq_of_fields <;> simp [dpAfterSent_step, clk, dioAfter, d3]

theorem range_succ_flatMap {α : Type} (n : Nat) (f : Nat → List α) :
    (List.range (n + 1)).flatMap f = f 0 ++ (List.range n).flatMap (fun j => f (j + 1)) := by
  simp [List.range_succ_eq_map, List.flatMap_map]

theorem range_succ_map {α : Type} (n : Nat) (f : Nat → α) :
    (List.range (n + 1)).map f = f 0 :: (List.range n).map (fun j => f (j + 1)) := by
  simp [List.range_succ_eq_map]

theorem dpAfterRead_step (n : Nat) (lsb : Bool) (bits : BitVec 4) (f : Nat → Bool) (dp : Datapath) :
    dpAfterRead n lsb bits (fun k => f (8 + k))
      { sr := byteSampled lsb f, bitcnt := bits, bytecnt := dp.bytecnt + 1#12, tmocnt := dp.tmocnt } =
      dpAfterRead (n + 1) lsb bits f dp := by
  cases n with
  | zero => simp [dpAfterRead]
  | succ n =>
    simp only [dpAfterRead, Datapath.mk.injEq]
    refine ⟨byteSampled_congr fun i _ => congrArg f (by omega), trivial, ?_, trivial⟩
    rw [ofNat_succ (n + 1), BitVec.add_assoc]

/-- A state eight answers further on. -/
theorem answerAt_later {s t : State} (k : Nat) (answers : t.env.answers = s.env.answers.drop k)
    (reads : t.env.reads = s.env.reads + k) : answerAt t = fun j => answerAt s (k + j) := by
  funext j
  simp [answerAt, answers, reads, Nat.add_assoc]

theorem bytesSampled_succ (lsb : Bool) (n : Nat) (f : Nat → Bool) :
    bytesSampled lsb (n + 1) f = byteSampled lsb f :: bytesSampled lsb n (fun k => f (8 + k)) := by
  rw [bytesSampled, range_succ_map]
  refine congrArg₂ _ (byteSampled_congr fun i _ => congrArg f (by omega)) ?_
  refine List.map_congr_left fun j _ => byteSampled_congr fun i _ => congrArg f (by omega)

theorem twReadEvents_succ (d n : Nat) (f : Nat → Bool) :
    twReadEvents d (n + 1) f =
      (List.range 8).flatMap (fun i => twSampleEvents d (f i)) ++ twReadEvents d n (fun k => f (8 + k)) := by
  rw [twReadEvents, range_succ_flatMap]
  refine congrArg₂ _ (by simp) ?_
  refine congrArg (fun g => List.flatMap g (List.range n)) (funext fun j => ?_)
  refine congrArg (fun g => List.flatMap g (List.range 8)) (funext fun i => ?_)
  exact congrArg (fun k => twSampleEvents d (f k)) (by omega)

/-- `n` times `tw_rxbyte`. -/
theorem twRxAll_eq (n : Nat) (s : State) :
    twRxAll n s = (bytesSampled true n (answerAt s),
      withEvents (twReadEvents (d3 s) n (answerAt s))
        (afterAnswers (8 * n)
          { s with
            dp := dpAfterRead n true 8 (answerAt s) s.dp
            tws := { s.tws with clk := clkAfter n s.tws.clk } })) := by
  induction n generalizing s with
  | zero => rfl
  | succ n ih =>
    have clk : clkAfter n (.driven true) = clkAfter (n + 1) s.tws.clk := by simp [clkAfter]
    have later : ∀ es x y, answerAt (withEvents es (afterAnswers 8 { s with dp := x, tws := y })) =
        fun j => answerAt s (8 + j) := fun _ _ _ => answerAt_later 8 rfl rfl
    simp only [twRxAll, twRxByte_eq, ih, later]
    rw [bytesSampled_succ, twReadEvents_succ]
    refine Prod.ext rfl (State.eq_of_fields (dpAfterRead_step n true 8 (answerAt s) s.dp) ?_ ?_ ?_ ?_ ?_ ?_ ?_ ?_ ?_ ?_ ?_) <;>
      simp [clk, d3, Nat.mul_add, Nat.add_assoc, Nat.add_comm]

/-- No switch where the direction is already the one asked for (R148). -/
theorem twSwitch_same (x : TwDir) (s : State) (h : s.tws.dir = x) : twSwitch x s = s := by
  simp [twSwitch, h]

/-- A switch to OUT emits no event (R148). -/
theorem twSwitch_output (s : State) : twSwitch .output s = { s with tws := { s.tws with dir := .output } } := by
  unfold twSwitch
  split
  · rename_i h
    rw [← h]
  · rfl

/-- A switch to IN releases DIO and waits a phase (R148). -/
theorem twSwitch_input (s : State) (h : s.tws.dir = .output) :
    twSwitch .input s = withEvents (twTurnEvents (d3 s)) { s with tws := { s.tws with dio := .input, dir := .input } } := by
  simp [twSwitch, h]
  rfl

/-- The written bytes go out in one strobe frame (R152). -/
theorem twWriteFrame_eq (bs : List Byte) (s : State) :
    twWriteFrame bs s = withEvents (twFrameEvents (d3 s) bs)
      { s with dp := dpAfterSent bs.length s.dp, tws := twClosed bs.length s.tws } := by
  rw [twWriteFrame, twBegin_eq, twSwitch_output, twTxAll_eq, twEnd_eq]
  apply State.eq_of_fields <;> simp [twFrameEvents, twClosed, d3]

/-- TW.WRITE_CMD_DATA and its kin: BYTECNT from 0, one strobe frame (R152). -/
theorem twWrite_eq (bs : List Byte) (s : State) :
    twWrite bs s = withEvents (twFrameEvents (d3 s) bs)
      { s with dp := dpAfterSent bs.length { s.dp with bytecnt := 0 }, tws := twClosed bs.length s.tws } :=
  twWriteFrame_eq bs (clearByteCount s)

theorem twCommandBytes_nil (s : State) : twCommandBytes [] s = s := rfl

theorem twCommandBytes_cons (c : Byte) (cs : List Byte) (s : State) :
    twCommandBytes (c :: cs) s = twTxAll (c :: cs) (twSwitch .output s) := rfl

/-- The read bytes and the close of a frame (R149). -/
theorem twReadTail_eq (n : Nat) (t : State) :
    twEnd (twRxAll n t).2 = withEvents (twReadEvents (d3 t) n (answerAt t) ++ twCloseEvents (d3 t))
      (afterAnswers (8 * n)
        { t with dp := dpAfterRead n true 8 (answerAt t) t.dp, tws := twClosed n t.tws }) := by
  rw [twRxAll_eq, twEnd_eq]
  apply State.eq_of_fields <;> simp [twClosed, d3]

/-- The state a read frame is in once its command bytes are sent and the line is turned (R149). -/
theorem twReadHead_eq (cs : List Byte) (s : State) (dir : s.tws.dir = .input) :
    twSwitch .input (twCommandBytes cs (twBegin s)) =
      withEvents (twOpenEvents (d3 s) ++ cs.flatMap (twByteEvents (d3 s)) ++ (if cs.isEmpty then [] else twTurnEvents (d3 s)))
        { s with
          dp := dpAfterSent cs.length s.dp
          tws :=
            { frame := .opened, dir := .input, bitcnt := 0, stb := .driven false, clk := clkAfter cs.length s.tws.clk,
              dio := if cs.isEmpty then s.tws.dio else .input } } := by
  cases cs with
  | nil =>
    have same : twSwitch .input (twBegin s) = twBegin s := twSwitch_same _ _ dir
    rw [twCommandBytes_nil, same, twBegin_eq]
    apply State.eq_of_fields <;> simp [d3, clkAfter, dir]
  | cons c cs =>
    rw [twCommandBytes_cons, twSwitch_output, twTxAll_eq, twSwitch_input _ rfl, twBegin_eq]
    apply State.eq_of_fields <;> simp [d3]

/-- The frame of a read, from the direction every frame starts with (R149, R163). -/
theorem twReadFrame_eq (cs : List Byte) (n : Nat) (s : State) (hn : 0 < n) (dir : s.tws.dir = .input) :
    twReadFrame cs n s = (bytesSampled true n (answerAt s),
      withEvents (twReadFrameEvents (d3 s) cs n (answerAt s))
        (afterAnswers (8 * n)
          { s with
            dp := dpAfterRead n true 8 (answerAt s) (dpAfterSent cs.length s.dp)
            tws := twClosed (cs.length + n) s.tws })) := by
  have clk : clkAfter n (clkAfter cs.length s.tws.clk) = clkAfter (cs.length + n) s.tws.clk := by
    simp [clkAfter, Nat.pos_iff_ne_zero.mp hn]
  have nonzero : n ≠ 0 := by omega
  rw [twReadFrame, if_neg nonzero, twReadHead_eq cs s dir]
  refine Prod.ext ?_ ?_
  · simp only [twRxAll_eq]
    rfl
  · simp only [twReadTail_eq]
    apply State.eq_of_fields <;> simp [twReadFrameEvents, twClosed, clk, d3]
    · rfl
    · rfl

/-- TW.READ_CMD_DATA and its kin, from the direction every frame starts with (R149, R163). -/
theorem twRead_eq (cs : List Byte) (n : Nat) (s : State) (hn : 0 < n) (dir : s.tws.dir = .input) :
    twRead cs n s = (bytesSampled true n (answerAt s),
      withEvents (twReadFrameEvents (d3 s) cs n (answerAt s))
        (afterAnswers (8 * n)
          { s with
            dp := dpAfterRead n true 8 (answerAt s) (dpAfterSent cs.length { s.dp with bytecnt := 0 })
            tws := twClosed (cs.length + n) s.tws })) := by
  rw [twRead, if_neg (by omega)]
  exact twReadFrame_eq cs n (clearByteCount s) hn dir

/-- A read of no byte does nothing (R149). -/
theorem twRead_zero (cs : List Byte) (s : State) : twRead cs 0 s = ([], s) := rfl

theorem twDir_some (x : TwDir) (s : State) (h : s.tws.dir = x ∨ s.tws.bitcnt = 0) : twDir x s = some (twSwitch x s) := by
  rw [twDir, if_pos (by simpa only [twTurns, decide_eq_true_eq] using h)]

theorem twDir_none (x : TwDir) (s : State) (dir : s.tws.dir ≠ x) (mid : s.tws.bitcnt ≠ 0) : twDir x s = none := by
  rw [twDir, if_neg (by simpa only [twTurns, decide_eq_true_eq, not_or] using ⟨dir, mid⟩)]

end Sys2Proof.Machine
end

