-- ==== Sys2Proof/Laws/I2c.lean ====
section
/-! SUPPORT. What each procedure of the I2C engine does, once, as one equation: the events it emits, the answers it takes and
the registers it leaves (41_i2c.md R183 to R192). -/

namespace Sys2Proof.Machine

@[simp] theorem dI2c_withEvents (es : List Event) (s : State) : dI2c (withEvents es s) = dI2c s := rfl

@[simp] theorem dI2c_afterAnswers (k : Nat) (s : State) : dI2c (afterAnswers k s) = dI2c s := rfl

/-- How OBLE drives SDA for a bit (R186). -/
def sdaFor (b : Bool) : I2cDrive := if b then .rel else .low

/-- `i2c_start` (R183). -/
theorem i2cStart_eq (s : State) :
    i2cStart s = withEvents (i2cStartEvents (dI2c s)) { s with i2cs := { bus := .held, sda := .low, scl := .low } } := rfl

/-- `i2c_rstart` (R184). -/
theorem i2cRstart_eq (s : State) :
    i2cRstart s = withEvents (i2cRstartEvents (dI2c s)) { s with i2cs := { s.i2cs with sda := .low, scl := .low } } := rfl

/-- `i2c_stop` (R185). -/
theorem i2cStop_eq (s : State) :
    i2cStop s = withEvents (i2cStopEvents (dI2c s)) { s with i2cs := { bus := .idle, sda := .rel, scl := .rel } } := rfl

/-- `i2c_txbit` (R186). -/
theorem i2cTxBit_eq (b : Bool) (s : State) :
    i2cTxBit b s = withEvents (i2cBitEvents (dI2c s) b) { s with i2cs := { s.i2cs with sda := sdaFor b, scl := .low } } := by
  cases b <;> rfl

/-- `i2c_rxbit` (R187). -/
theorem i2cRxBit_eq (s : State) :
    i2cRxBit s = (answerAt s 0, withEvents (i2cSampleEvents (dI2c s) (answerAt s 0))
      (afterAnswers 1 { s with i2cs := { s.i2cs with scl := .low } })) := by
  simp only [i2cRxBit, readPin_eq]
  rfl

theorem i2cWaitEvents_succ (w : Nat) :
    i2cWaitEvents (w + 1) = [.read .scl false, .delay 1] ++ i2cWaitEvents w := rfl

/-- The poll finds SCL high after `w` waits (R188). -/
theorem i2cPoll_high (ticks w : Nat) (s : State) (bound : w ≤ ticks) (low : ∀ j, j < w → answerAt s j = false)
    (high : answerAt s w = true) :
    i2cPoll ticks s = (true, withEvents (i2cWaitEvents w ++ [.read .scl true])
      (afterAnswers (w + 1) { s with dp := { s.dp with tmocnt := s.dp.tmocnt + BitVec.ofNat 16 w } })) := by
  induction ticks generalizing w s with
  | zero =>
    obtain rfl : w = 0 := by omega
    rw [i2cPoll, readPin_eq, high]
    refine Prod.ext rfl (State.eq_of_fields ?_ rfl rfl rfl rfl rfl rfl rfl rfl rfl rfl rfl)
    simp
  | succ ticks ih =>
    cases w with
    | zero =>
      simp only [i2cPoll, readPin_eq, high, if_true]
      refine Prod.ext rfl (State.eq_of_fields ?_ rfl rfl rfl rfl rfl rfl rfl rfl rfl rfl rfl)
      simp
    | succ w =>
      have first := low 0 (by omega)
      simp only [i2cPoll, readPin_eq, first, Bool.false_eq_true, if_false]
      rw [ih w _ (by omega)]
      · refine Prod.ext rfl (State.eq_of_fields ?_ rfl rfl rfl rfl rfl rfl rfl rfl rfl ?_ rfl)
        · simp [Nat.add_comm w 1, BitVec.ofNat_add, BitVec.add_assoc]
        · simp [i2cWaitEvents_succ, Nat.add_assoc, Nat.add_comm]
          omega
      · intro j hj
        exact (congrFun (answerAt_later (s := s) 1 rfl rfl) j).trans (by rw [Nat.add_comm]; exact low (j + 1) (by omega))
      · exact (congrFun (answerAt_later (s := s) 1 rfl rfl) w).trans (by rw [Nat.add_comm]; exact high)

/-- The poll finds SCL low at every read (R188). -/
theorem i2cPoll_stuck (ticks : Nat) (s : State) (low : ∀ j, j ≤ ticks → answerAt s j = false) :
    i2cPoll ticks s = (false, withEvents (i2cWaitEvents ticks ++ [.read .scl false])
      (afterAnswers (ticks + 1) { s with dp := { s.dp with tmocnt := s.dp.tmocnt + BitVec.ofNat 16 ticks } })) := by
  induction ticks generalizing s with
  | zero =>
    rw [i2cPoll, readPin_eq, low 0 (by omega)]
    refine Prod.ext rfl (State.eq_of_fields ?_ rfl rfl rfl rfl rfl rfl rfl rfl rfl rfl rfl)
    simp
  | succ ticks ih =>
    have first := low 0 (by omega)
    simp only [i2cPoll, readPin_eq, first, Bool.false_eq_true, if_false]
    rw [ih]
    · refine Prod.ext rfl (State.eq_of_fields ?_ rfl rfl rfl rfl rfl rfl rfl rfl rfl ?_ rfl)
      · simp [Nat.add_comm ticks 1, BitVec.ofNat_add, BitVec.add_assoc]
      · simp [i2cWaitEvents_succ, Nat.add_assoc, Nat.add_comm]
        omega
    · intro j hj
      exact (congrFun (answerAt_later (s := s) 1 rfl rfl) j).trans (by rw [Nat.add_comm]; exact low (j + 1) (by omega))

/-- Whatever the environment answers, the poll finds SCL high within its bound or is stuck (R188, R454). -/
theorem clockRises_or_stuck (s : State) : (∃ w, clockRises s w) ∨ clockStuck s := by
  by_cases h : ∃ w, w ≤ s.cfg.i2c.tack.toNat ∧ answerAt s w = true
  · left
    refine ⟨Nat.find h, (Nat.find_spec h).1, fun j hj => ?_, (Nat.find_spec h).2⟩
    have first := Nat.find_min h hj
    have bound : j ≤ s.cfg.i2c.tack.toNat := Nat.le_trans (Nat.le_of_lt hj) (Nat.find_spec h).1
    cases answer : answerAt s j with
    | false => rfl
    | true => exact absurd ⟨bound, answer⟩ first
  · right
    intro j hj
    cases answer : answerAt s j with
    | false => rfl
    | true => exact absurd ⟨j, hj, answer⟩ h

/-- How an ACK poll begins: SDA released, then SCL released (R188). -/
theorem i2cAckPoll_head (s : State) :
    setTmocnt 0 (relScl (delay (dI2c s) (relSda s))) =
      withEvents [.setInput .sda, .delay (dI2c s), .setInput .scl]
        { s with dp := { s.dp with tmocnt := 0 }, i2cs := { s.i2cs with sda := .rel, scl := .rel } } := rfl

/-- The state after an ACK poll that sampled SDA after `w` waits (R188). -/
theorem i2cAckPoll_sampled (w : Nat) (s : State) (rises : clockRises s w) :
    i2cAckPoll s = (answerAt s (w + 1), withEvents (i2cAckEvents (dI2c s) w (answerAt s (w + 1)))
      (afterAnswers (w + 2)
        { s with dp := { s.dp with tmocnt := BitVec.ofNat 16 w }, i2cs := { s.i2cs with sda := .rel, scl := .low } })) := by
  obtain ⟨bound, low, high⟩ := rises
  have poll := i2cPoll_high s.cfg.i2c.tack.toNat w (setTmocnt 0 (relScl (delay (dI2c s) (relSda s)))) bound low high
  rw [i2cAckPoll, poll, i2cAckPoll_head]
  simp only [if_true, readPin_eq, delay_eq, answerAt_withEvents, answerAt_afterAnswers, answerAt_registers, withEvents_dp]
  refine Prod.ext rfl (State.eq_of_fields ?_ ?_ ?_ ?_ ?_ ?_ ?_ ?_ ?_ ?_ ?_ ?_) <;>
    simp [i2cAckEvents, Nat.add_assoc]

/-- The state after an ACK poll that timed out (R188). -/
theorem i2cAckPoll_stuck (s : State) (stuck : clockStuck s) :
    i2cAckPoll s = (true, withEvents (i2cTimeoutEvents (dI2c s) s.cfg.i2c.tack.toNat)
      (afterAnswers (s.cfg.i2c.tack.toNat + 1)
        { s with
          dp := { s.dp with tmocnt := s.cfg.i2c.tack }
          i2cs := { s.i2cs with sda := .rel, scl := .low }
          status := { s.status with tmo := true } })) := by
  have poll := i2cPoll_stuck s.cfg.i2c.tack.toNat (setTmocnt 0 (relScl (delay (dI2c s) (relSda s)))) stuck
  rw [i2cAckPoll, poll, i2cAckPoll_head]
  simp only [Bool.false_eq_true, if_false]
  refine Prod.ext rfl (State.eq_of_fields ?_ ?_ ?_ ?_ ?_ ?_ ?_ ?_ ?_ ?_ ?_ ?_) <;>
    simp [i2cTimeoutEvents]

/-- How SDA is left after the eight bits of a byte: as the last bit put it. -/
def sdaAfter (lsb : Bool) (x : Byte) : I2cDrive := sdaFor (if lsb then x.getLsbD 7 else x.getLsbD 0)

/-- Eight transmitted bits (R189, R190). -/
theorem i2cTxBits_eq (lsb : Bool) (x : Byte) (s : State) :
    i2cTxBits lsb 8 (loadSr x s) = withEvents ((bitsIn lsb x).flatMap (i2cBitEvents (dI2c s)))
      { s with
        dp := { s.dp with sr := 0, bitcnt := 8 }
        i2cs := { s.i2cs with sda := sdaAfter lsb x, scl := .low } } := by
  cases lsb <;> apply State.eq_of_fields <;>
    simp [i2cTxBits, i2cTxBit_eq, shiftRight_eight, bitsIn, bitsLow, i2cBitEvents, dI2c, sdaAfter]

theorem countAck_eq (s : State) : countAck s = { s with status := { s.status with acked := ackedAfter 1 s.status.acked } } := by
  have next : (if s.status.acked = 4095 then s.status.acked else s.status.acked + 1) = ackedAfter 1 s.status.acked := by
    unfold ackedAfter
    generalize s.status.acked = a
    have := a.isLt
    apply BitVec.eq_of_toNat_eq
    split
    · rename_i h
      subst h
      rfl
    · rename_i h
      have : a.toNat ≠ 4095 := fun e => h (BitVec.eq_of_toNat_eq e)
      have one : BitVec.toNat (1 : BitVec 12) = 1 := rfl
      simp only [BitVec.toNat_add, BitVec.toNat_ofNat, one]
      omega
  rw [countAck, next]

theorem ackedAfter_zero (a : BitVec 12) : ackedAfter 0 a = a := by
  apply BitVec.eq_of_toNat_eq
  have := a.isLt
  simp only [ackedAfter, BitVec.toNat_ofNat]
  omega

theorem ackedAfter_ackedAfter (m n : Nat) (a : BitVec 12) : ackedAfter n (ackedAfter m a) = ackedAfter (m + n) a := by
  apply BitVec.eq_of_toNat_eq
  have := a.isLt
  simp only [ackedAfter, BitVec.toNat_ofNat]
  omega

/-- A byte sent, whose acknowledge was sampled after `w` waits (R189, R190). -/
theorem i2cTxOrdered_sampled (lsb : Bool) (x : Byte) (w : Nat) (s : State) (rises : clockRises s w) :
    i2cTxOrdered lsb x s = (answerAt s (w + 1),
      withEvents (i2cByteEvents lsb (dI2c s) w (answerAt s (w + 1)) x)
        (afterAnswers (w + 2)
          { s with
            dp := { sr := 0, bitcnt := 8, bytecnt := s.dp.bytecnt + 1, tmocnt := BitVec.ofNat 16 w }
            i2cs := { s.i2cs with sda := .rel, scl := .low }
            status :=
              { s.status with acked := if answerAt s (w + 1) then s.status.acked else ackedAfter 1 s.status.acked } })) := by
  have bits := i2cTxBits_eq lsb x s
  have poll := i2cAckPoll_sampled w (i2cTxBits lsb 8 (loadSr x s)) (by rw [bits]; exact rises)
  rw [i2cTxOrdered, poll, bits]
  simp only [answerAt_withEvents, answerAt_registers, countIfAcked, countAck_eq]
  refine Prod.ext rfl (State.eq_of_fields ?_ ?_ ?_ ?_ ?_ ?_ ?_ ?_ ?_ ?_ ?_ ?_) <;>
    cases answerAt s (w + 1) <;> simp [i2cByteEvents, dI2c]

/-- A byte sent, whose ACK poll timed out (R189, R190). -/
theorem i2cTxOrdered_stuck (lsb : Bool) (x : Byte) (s : State) (stuck : clockStuck s) :
    i2cTxOrdered lsb x s = (true,
      withEvents ((bitsIn lsb x).flatMap (i2cBitEvents (dI2c s)) ++ i2cTimeoutEvents (dI2c s) s.cfg.i2c.tack.toNat)
        (afterAnswers (s.cfg.i2c.tack.toNat + 1)
          { s with
            dp := { sr := 0, bitcnt := 8, bytecnt := s.dp.bytecnt + 1, tmocnt := s.cfg.i2c.tack }
            i2cs := { s.i2cs with sda := .rel, scl := .low }
            status := { s.status with tmo := true } })) := by
  have bits := i2cTxBits_eq lsb x s
  have poll := i2cAckPoll_stuck (i2cTxBits lsb 8 (loadSr x s)) (by rw [bits]; exact stuck)
  rw [i2cTxOrdered, poll, bits]
  refine Prod.ext rfl (State.eq_of_fields ?_ ?_ ?_ ?_ ?_ ?_ ?_ ?_ ?_ ?_ ?_ ?_) <;>
    simp [countIfAcked, dI2c]

/-- Bytes sent in order, each with its bit order, stopping at the first not acknowledged. -/
def i2cSend (ws : List (Bool × Byte)) (s : State) : Bool × State :=
  match ws with
  | [] => (false, s)
  | w :: ws => ifAcked (i2cTxOrdered w.1 w.2 s) (i2cSend ws)

theorem i2cSend_append (a b : List (Bool × Byte)) (s : State) : i2cSend (a ++ b) s = ifAcked (i2cSend a s) (i2cSend b) := by
  induction a generalizing s with
  | nil => rfl
  | cons w a ih =>
    simp only [List.cons_append, i2cSend, ifAcked]
    split
    · rfl
    · exact ih _

/-- The I2C lines after bytes were sent. -/
def i2csAfterSent (n : Nat) (i : I2cState) : I2cState := if n = 0 then i else { i with sda := .rel, scl := .low }

theorem dpAfterAcked_step (n : Nat) (dp : Datapath) :
    dpAfterAcked n { sr := 0#8, bitcnt := 8#4, bytecnt := dp.bytecnt + 1#12, tmocnt := 0#16 } = dpAfterAcked (n + 1) dp := by
  cases n with
  | zero => rfl
  | succ n =>
    simp only [dpAfterAcked, Nat.add_one_ne_zero, if_false]
    rw [ofNat_succ (n + 1), BitVec.add_assoc]

/-- Bytes sent and acknowledged at once. -/
theorem i2cSend_acked (ws : List (Bool × Byte)) (s : State) (acks : acksAtOnce s ws.length) :
    i2cSend ws s = (false,
      withEvents (sentEvents (dI2c s) ws)
        (afterAnswers (2 * ws.length)
          { s with
            dp := dpAfterAcked ws.length s.dp
            i2cs := i2csAfterSent ws.length s.i2cs
            status := { s.status with acked := ackedAfter ws.length s.status.acked } })) := by
  induction ws generalizing s with
  | nil =>
    refine Prod.ext rfl (State.eq_of_fields rfl rfl rfl rfl ?_ rfl rfl rfl rfl rfl rfl rfl)
    simp [i2cSend, ackedAfter_zero]
  | cons w ws ih =>
    have high := (acks 0 (by simp)).1
    have ack : answerAt s 1 = false := (acks 0 (by simp)).2
    have byte := i2cTxOrdered_sampled w.1 w.2 0 s ⟨Nat.zero_le _, fun j hj => absurd hj (Nat.not_lt_zero j), high⟩
    rw [i2cSend]
    simp only [byte, Nat.zero_add, ifAcked, ack, Bool.false_eq_true, if_false]
    refine (ih _ ?_).trans (Prod.ext rfl (State.eq_of_fields ?_ rfl ?_ rfl ?_ rfl rfl rfl rfl rfl ?_ rfl))
    · intro j hj
      have := acks (j + 1) (by simpa using hj)
      simpa [Nat.mul_add, Nat.add_comm, Nat.add_left_comm] using this
    · exact dpAfterAcked_step _ _
    · simp [i2csAfterSent]
    · simp [ackedAfter_ackedAfter, Nat.add_comm]
    · simp [sentEvents, dI2c, Nat.mul_add, Nat.add_assoc, Nat.add_comm]

/-- Eight samples from the bottom make the byte of 20_memory.md R88, MSB first. -/
theorem shiftInBottom_eight (b0 b1 b2 b3 b4 b5 b6 b7 : Bool) :
    shiftInBottom (shiftInBottom (shiftInBottom (shiftInBottom (shiftInBottom (shiftInBottom (shiftInBottom (shiftInBottom 0 b0)
      b1) b2) b3) b4) b5) b6) b7 = byteSampled false (eightBits b0 b1 b2 b3 b4 b5 b6 b7) := by
  revert b0 b1 b2 b3 b4 b5 b6 b7; decide

/-- Eight received bits (R191). -/
theorem i2cRxBits_eq (s : State) :
    i2cRxBits 8 (loadSr 0 s) = withEvents ((List.range 8).flatMap (fun i => i2cSampleEvents (dI2c s) (answerAt s i)))
      (afterAnswers 8
        { s with
          dp := { s.dp with sr := byteSampled s.cfg.i2c.lsbf (answerAt s), bitcnt := 8 }
          i2cs := { s.i2cs with scl := .low } }) := by
  rw [byteSampled_eightBits]
  cases order : s.cfg.i2c.lsbf
  · rw [← shiftInBottom_eight]
    refine State.eq_of_fields ?_ ?_ ?_ ?_ ?_ ?_ ?_ ?_ ?_ ?_ ?_ ?_ <;>
      simp [i2cRxBits, i2cRxBit_eq, i2cSampleEvents, dI2c, List.range, List.range.loop, order, answerAt, Nat.add_assoc]
  · rw [← shiftInTop_eight]
    refine State.eq_of_fields ?_ ?_ ?_ ?_ ?_ ?_ ?_ ?_ ?_ ?_ ?_ ?_ <;>
      simp [i2cRxBits, i2cRxBit_eq, i2cSampleEvents, dI2c, List.range, List.range.loop, order, answerAt, Nat.add_assoc]

/-- `i2c_rxbyte` (R191). -/
theorem i2cRxByte_eq (m : Bool) (s : State) :
    i2cRxByte m s = (byteSampled s.cfg.i2c.lsbf (answerAt s),
      withEvents (i2cReceiveEvents (dI2c s) m (answerAt s))
        (afterAnswers 8
          { s with
            dp :=
              { s.dp with sr := byteSampled s.cfg.i2c.lsbf (answerAt s), bitcnt := 9, bytecnt := s.dp.bytecnt + 1 }
            i2cs := { s.i2cs with sda := sdaFor m, scl := .low } })) := by
  have bits := i2cRxBits_eq (relSda s)
  unfold i2cRxByte
  rw [bits]
  simp only [i2cTxBit_eq]
  refine Prod.ext rfl (State.eq_of_fields ?_ ?_ ?_ ?_ ?_ ?_ ?_ ?_ ?_ ?_ ?_ ?_) <;>
    simp [i2cReceiveEvents, dI2c]
  all_goals rfl

end Sys2Proof.Machine
end

