-- ==== Sys2Proof/Laws/Effects.lean ====
section
/-! SUPPORT. What the procedures of the two engines may change, once: an effect relation, its composition, and that every
procedure is such an effect. It also says that every event on a line updates that line's drive register (10_state.md R38,
R40). -/

namespace Sys2Proof.Machine

/-- The registers a bus step never touches, and the trace it appends: events of one kind, each of which leaves its line at the
level the drive registers say. -/
structure Effect (kind : Event → Bool) (s t : State) : Prop where
  seq : t.seq = s.seq
  cfg : t.cfg = s.cfg
  ctlr : t.ctlr = s.ctlr
  wbuf : t.wbuf = s.wbuf
  rxq : t.rxq = s.rxq
  refused : t.refused = s.refused
  par : t.par = s.par
  inbox : t.env.inbox = s.env.inbox
  rc : t.status.rc = s.status.rc
  emits : ∃ es : List Event, t.env.traceRev = es.reverse ++ s.env.traceRev ∧ (∀ e ∈ es, kind e = true) ∧
    ∀ p, wireLevel t p = es.foldl (levelAfter p) (wireLevel s p)

theorem Effect.refl (kind : Event → Bool) (s : State) : Effect kind s s :=
  ⟨rfl, rfl, rfl, rfl, rfl, rfl, rfl, rfl, rfl, [], rfl, by simp, fun _ => rfl⟩

theorem Effect.trans {kind : Event → Bool} {s t u : State} (a : Effect kind s t) (b : Effect kind t u) : Effect kind s u := by
  obtain ⟨es, ea, ka, la⟩ := a.emits
  obtain ⟨fs, eb, kb, lb⟩ := b.emits
  refine ⟨b.seq.trans a.seq, b.cfg.trans a.cfg, b.ctlr.trans a.ctlr, b.wbuf.trans a.wbuf, b.rxq.trans a.rxq,
    b.refused.trans a.refused, b.par.trans a.par, b.inbox.trans a.inbox, b.rc.trans a.rc, es ++ fs, ?_, ?_, ?_⟩
  · simp [eb, ea]
  · intro e he
    rcases List.mem_append.mp he with h | h
    · exact ka e h
    · exact kb e h
  · intro p
    rw [List.foldl_append, lb p, la p]

theorem Effect.mono {k l : Event → Bool} {s t : State} (h : ∀ e, k e = true → l e = true) (a : Effect k s t) :
    Effect l s t := by
  obtain ⟨es, ea, ka, la⟩ := a.emits
  exact ⟨a.seq, a.cfg, a.ctlr, a.wbuf, a.rxq, a.refused, a.par, a.inbox, a.rc, es, ea, fun e he => h e (ka e he), la⟩

/-- A change of working registers is an effect without events. -/
theorem Effect.quiet {kind : Event → Bool} {s t : State} (seq : t.seq = s.seq) (cfg : t.cfg = s.cfg) (ctlr : t.ctlr = s.ctlr)
    (wbuf : t.wbuf = s.wbuf) (rxq : t.rxq = s.rxq) (refused : t.refused = s.refused) (par : t.par = s.par)
    (inbox : t.env.inbox = s.env.inbox) (rc : t.status.rc = s.status.rc) (trace : t.env.traceRev = s.env.traceRev)
    (level : ∀ p, wireLevel t p = wireLevel s p) : Effect kind s t :=
  ⟨seq, cfg, ctlr, wbuf, rxq, refused, par, inbox, rc, [], trace, by simp, level⟩

/-- One event, with the drive register of its line. -/
theorem Effect.one {kind : Event → Bool} {s t : State} (e : Event) (seq : t.seq = s.seq) (cfg : t.cfg = s.cfg)
    (ctlr : t.ctlr = s.ctlr) (wbuf : t.wbuf = s.wbuf) (rxq : t.rxq = s.rxq) (refused : t.refused = s.refused)
    (par : t.par = s.par) (inbox : t.env.inbox = s.env.inbox) (rc : t.status.rc = s.status.rc)
    (trace : t.env.traceRev = e :: s.env.traceRev) (ok : kind e = true)
    (level : ∀ p, wireLevel t p = levelAfter p (wireLevel s p) e) : Effect kind s t :=
  ⟨seq, cfg, ctlr, wbuf, rxq, refused, par, inbox, rc, [e], trace, by simpa using ok, level⟩

section primitives

variable (s : State)

theorem delay_effect (n : Nat) {kind : Event → Bool} (ok : kind (.delay n) = true) : Effect kind s (delay n s) :=
  .one (.delay n) rfl rfl rfl rfl rfl rfl rfl rfl rfl rfl ok (fun p => by cases p <;> rfl)

theorem loSda_effect : Effect i2cEvent s (loSda s) :=
  .one (.set .sda false) rfl rfl rfl rfl rfl rfl rfl rfl rfl rfl rfl (fun p => by cases p <;> rfl)

theorem loScl_effect : Effect i2cEvent s (loScl s) :=
  .one (.set .scl false) rfl rfl rfl rfl rfl rfl rfl rfl rfl rfl rfl (fun p => by cases p <;> rfl)

theorem relSda_effect : Effect i2cEvent s (relSda s) :=
  .one (.setInput .sda) rfl rfl rfl rfl rfl rfl rfl rfl rfl rfl rfl (fun p => by cases p <;> rfl)

theorem relScl_effect : Effect i2cEvent s (relScl s) :=
  .one (.setInput .scl) rfl rfl rfl rfl rfl rfl rfl rfl rfl rfl rfl (fun p => by cases p <;> rfl)

theorem setStb_effect (v : Bool) : Effect twEvent s (setStb v s) :=
  .one (.set .stb v) rfl rfl rfl rfl rfl rfl rfl rfl rfl rfl rfl (fun p => by cases p <;> rfl)

theorem setClk_effect (v : Bool) : Effect twEvent s (setClk v s) :=
  .one (.set .clk v) rfl rfl rfl rfl rfl rfl rfl rfl rfl rfl rfl (fun p => by cases p <;> rfl)

theorem setDio_effect (v : Bool) : Effect twEvent s (setDio v s) :=
  .one (.set .dio v) rfl rfl rfl rfl rfl rfl rfl rfl rfl rfl rfl (fun p => by cases p <;> rfl)

theorem relDio_effect : Effect twEvent s (relDio s) :=
  .one (.setInput .dio) rfl rfl rfl rfl rfl rfl rfl rfl rfl rfl rfl (fun p => by cases p <;> rfl)

theorem readPin_effect (p : Pin) {kind : Event → Bool} (ok : ∀ v, kind (.read p v) = true) : Effect kind s (readPin p s).2 :=
  .one (.read p (nextAnswer s)) rfl rfl rfl rfl rfl rfl rfl rfl rfl rfl (ok _) (fun q => by cases q <;> rfl)

end primitives

/-- The working registers hold legal values (10_state.md R33, R35). -/
def DpLegal (s : State) : Prop := s.dp.bitcnt.toNat ≤ 9 ∧ s.dp.tmocnt.toNat ≤ s.cfg.i2c.tack.toNat

/-- What a run of the I2C engine's procedures may change. -/
structure I2cSteps (s t : State) : Prop where
  effect : Effect i2cEvent s t
  tws : t.tws = s.tws
  legal : DpLegal s → DpLegal t

/-- What a run of the TW engine's procedures may change. -/
structure TwSteps (s t : State) : Prop where
  effect : Effect twEvent s t
  i2cs : t.i2cs = s.i2cs
  status : t.status = s.status
  legal : DpLegal s → DpLegal t

theorem I2cSteps.refl (s : State) : I2cSteps s s := ⟨.refl _ s, rfl, id⟩

theorem I2cSteps.trans {s t u : State} (a : I2cSteps s t) (b : I2cSteps t u) : I2cSteps s u :=
  ⟨a.effect.trans b.effect, b.tws.trans a.tws, fun h => b.legal (a.legal h)⟩

theorem TwSteps.refl (s : State) : TwSteps s s := ⟨.refl _ s, rfl, rfl, id⟩

theorem TwSteps.trans {s t u : State} (a : TwSteps s t) (b : TwSteps t u) : TwSteps s u :=
  ⟨a.effect.trans b.effect, b.i2cs.trans a.i2cs, b.status.trans a.status, fun h => b.legal (a.legal h)⟩

/-! The I2C engine. -/

theorem i2cStart_steps (s : State) : I2cSteps s (i2cStart s) := by
  refine ⟨?_, rfl, id⟩
  refine (loSda_effect s).trans ((delay_effect _ (dI2c s) rfl).trans ((loScl_effect _).trans ((delay_effect _ (dI2c s) rfl).trans ?_)))
  exact .quiet rfl rfl rfl rfl rfl rfl rfl rfl rfl rfl (fun p => by cases p <;> rfl)

theorem i2cRstart_steps (s : State) : I2cSteps s (i2cRstart s) := by
  refine ⟨?_, rfl, id⟩
  refine (relSda_effect s).trans ((delay_effect _ (dI2c s) rfl).trans ((relScl_effect _).trans ((delay_effect _ (dI2c s) rfl).trans ?_)))
  exact (loSda_effect _).trans ((delay_effect _ (dI2c s) rfl).trans ((loScl_effect _).trans (delay_effect _ (dI2c s) rfl)))

theorem i2cStop_steps (s : State) : I2cSteps s (i2cStop s) := by
  refine ⟨?_, rfl, id⟩
  refine (loSda_effect s).trans ((delay_effect _ (dI2c s) rfl).trans ((relScl_effect _).trans ((delay_effect _ (dI2c s) rfl).trans ?_)))
  refine (relSda_effect _).trans ((delay_effect _ (dI2c s) rfl).trans ?_)
  exact .quiet rfl rfl rfl rfl rfl rfl rfl rfl rfl rfl (fun p => by cases p <;> rfl)

theorem i2cTxBit_steps (b : Bool) (s : State) : I2cSteps s (i2cTxBit b s) := by
  refine ⟨?_, by rw [i2cTxBit_eq]; rfl, by rw [i2cTxBit_eq]; exact id⟩
  have put : Effect i2cEvent s (putSda b s) := by
    cases b
    · exact loSda_effect s
    · exact relSda_effect s
  exact put.trans ((delay_effect _ (dI2c s) rfl).trans ((relScl_effect _).trans ((delay_effect _ (dI2c s) rfl).trans (loScl_effect _))))

theorem i2cRxBit_steps (s : State) : I2cSteps s (i2cRxBit s).2 := by
  refine ⟨?_, rfl, id⟩
  refine (delay_effect s (dI2c s) rfl).trans ((relScl_effect _).trans ((delay_effect _ (dI2c s) rfl).trans ?_))
  exact (readPin_effect _ .sda (fun _ => rfl)).trans (loScl_effect _)

/-- A change of the working registers alone. -/
theorem Effect.dp {kind : Event → Bool} (s : State) (dp : Datapath) : Effect kind s { s with dp := dp } :=
  .quiet rfl rfl rfl rfl rfl rfl rfl rfl rfl rfl (fun p => by cases p <;> rfl)

theorem i2cPoll_effect (ticks : Nat) (s : State) : Effect i2cEvent s (i2cPoll ticks s).2 := by
  induction ticks generalizing s with
  | zero => exact readPin_effect s .scl (fun _ => rfl)
  | succ ticks ih =>
    simp only [i2cPoll]
    split
    · exact readPin_effect s .scl (fun _ => rfl)
    · exact (readPin_effect s .scl (fun _ => rfl)).trans
        ((delay_effect _ 1 rfl).trans ((Effect.dp _ _).trans (ih _)))

theorem setTmo_effect (s : State) : Effect i2cEvent s (setTmo s) :=
  .quiet rfl rfl rfl rfl rfl rfl rfl rfl rfl rfl (fun p => by cases p <;> rfl)

theorem countAck_effect (s : State) : Effect i2cEvent s (countAck s) :=
  .quiet rfl rfl rfl rfl rfl rfl rfl rfl rfl rfl (fun p => by cases p <;> rfl)

theorem clearAcked_steps (s : State) : I2cSteps s (clearAcked s) :=
  ⟨.quiet rfl rfl rfl rfl rfl rfl rfl rfl rfl rfl (fun p => by cases p <;> rfl), rfl, id⟩

theorem clearByteCount_steps (s : State) : I2cSteps s (clearByteCount s) := ⟨Effect.dp s _, rfl, id⟩

theorem i2cAckPoll_steps (s : State) : I2cSteps s (i2cAckPoll s).2 := by
  refine ⟨?_, ?_, ?_⟩
  · have poll : Effect i2cEvent s (i2cPoll s.cfg.i2c.tack.toNat (setTmocnt 0 (relScl (delay (dI2c s) (relSda s))))).2 :=
      (relSda_effect s).trans ((delay_effect _ (dI2c s) rfl).trans ((relScl_effect _).trans ((Effect.dp _ _).trans
        (i2cPoll_effect _ _))))
    simp only [i2cAckPoll]
    split
    · exact poll.trans ((delay_effect _ (dI2c s) rfl).trans ((readPin_effect _ .sda (fun _ => rfl)).trans (loScl_effect _)))
    · exact poll.trans ((loScl_effect _).trans (setTmo_effect _))
  · rcases clockRises_or_stuck s with ⟨w, rises⟩ | stuck
    · rw [i2cAckPoll_sampled w s rises]
      rfl
    · rw [i2cAckPoll_stuck s stuck]
      rfl
  · intro legal
    rcases clockRises_or_stuck s with ⟨w, rises⟩ | stuck
    · rw [i2cAckPoll_sampled w s rises]
      refine ⟨legal.1, ?_⟩
      simpa using Nat.le_trans (Nat.mod_le _ _) rises.1
    · rw [i2cAckPoll_stuck s stuck]
      exact ⟨legal.1, by simp⟩

theorem i2cTxBits_effect (lsb : Bool) (n : Nat) (s : State) : Effect i2cEvent s (i2cTxBits lsb n s) := by
  induction n generalizing s with
  | zero => exact .refl _ s
  | succ n ih => exact (i2cTxBit_steps _ s).effect.trans ((Effect.dp _ _).trans (ih _))

theorem countIfAcked_effect (nack : Bool) (s : State) : Effect i2cEvent s (countIfAcked nack s) := by
  cases nack
  · exact countAck_effect s
  · exact .refl _ s

theorem i2cTxOrdered_steps (lsb : Bool) (x : Byte) (s : State) : I2cSteps s (i2cTxOrdered lsb x s).2 := by
  refine ⟨?_, ?_, ?_⟩
  · exact (Effect.dp s _).trans ((i2cTxBits_effect lsb 8 _).trans ((i2cAckPoll_steps _).effect.trans
      ((Effect.dp _ _).trans (countIfAcked_effect _ _))))
  · rcases clockRises_or_stuck s with ⟨w, rises⟩ | stuck
    · rw [i2cTxOrdered_sampled lsb x w s rises]
      rfl
    · rw [i2cTxOrdered_stuck lsb x s stuck]
      rfl
  · intro _
    rcases clockRises_or_stuck s with ⟨w, rises⟩ | stuck
    · rw [i2cTxOrdered_sampled lsb x w s rises]
      refine ⟨by simp, ?_⟩
      simpa using Nat.le_trans (Nat.mod_le _ _) rises.1
    · rw [i2cTxOrdered_stuck lsb x s stuck]
      exact ⟨by simp, by simp⟩

theorem ifAcked_steps {a : Bool × State} {f : State → Bool × State} {s : State} (ha : I2cSteps s a.2)
    (hf : ∀ t, I2cSteps t (f t).2) : I2cSteps s (ifAcked a f).2 := by
  unfold ifAcked
  split
  · exact ha
  · exact ha.trans (hf _)

theorem i2cRxBits_effect (n : Nat) (s : State) : Effect i2cEvent s (i2cRxBits n s) := by
  induction n generalizing s with
  | zero => exact .refl _ s
  | succ n ih => exact (i2cRxBit_steps s).effect.trans ((Effect.dp _ _).trans (ih _))

theorem i2cRxByte_steps (m : Bool) (s : State) : I2cSteps s (i2cRxByte m s).2 := by
  refine ⟨?_, ?_, ?_⟩
  · exact (relSda_effect s).trans ((Effect.dp _ _).trans ((i2cRxBits_effect 8 _).trans ((i2cTxBit_steps m _).effect.trans
      ((Effect.dp _ _).trans (Effect.dp _ _)))))
  · rw [i2cRxByte_eq]
    rfl
  · intro legal
    rw [i2cRxByte_eq]
    exact ⟨by simp, legal.2⟩

theorem i2cAddrPhase_steps (rw combined : Bool) (s : State) : I2cSteps s (i2cAddrPhase rw combined s).2 := by
  unfold i2cAddrPhase
  split
  · exact .refl s
  · exact i2cTxOrdered_steps _ _ s
  · split
    · exact i2cTxOrdered_steps _ _ s
    · refine ifAcked_steps (ifAcked_steps (i2cTxOrdered_steps _ _ s) (fun t => i2cTxOrdered_steps _ _ t)) (fun t => ?_)
      split
      · exact (i2cRstart_steps t).trans (i2cTxOrdered_steps _ _ _)
      · exact .refl t

theorem i2cTxAll_steps (bs : List Byte) (s : State) : I2cSteps s (i2cTxAll bs s).2 := by
  induction bs generalizing s with
  | nil => exact .refl s
  | cons b bs ih => exact ifAcked_steps (i2cTxOrdered_steps _ b s) ih

theorem i2cRxAll_steps (n : Nat) (s : State) : I2cSteps s (i2cRxAll n s).2 := by
  induction n generalizing s with
  | zero => exact .refl s
  | succ n ih => exact (i2cRxByte_steps _ s).trans (ih _)

theorem i2cRxAll_length (n : Nat) (s : State) : (i2cRxAll n s).1.length = n := by
  induction n generalizing s with
  | zero => rfl
  | succ n ih => simp [i2cRxAll, ih]

theorem i2cWrite_steps (bs : List Byte) (s : State) : I2cSteps s (i2cWrite bs s).2 :=
  (ifAcked_steps ((clearByteCount_steps s).trans ((i2cStart_steps _).trans (i2cAddrPhase_steps false false _)))
    (i2cTxAll_steps bs)).trans (i2cStop_steps _)

theorem i2cReadPhase_steps (n : Nat) (a : Bool × State) : I2cSteps a.2 (i2cReadPhase n a).2.2 := by
  unfold i2cReadPhase
  split
  · exact i2cStop_steps _
  · exact (i2cRxAll_steps n _).trans (i2cStop_steps _)

theorem i2cTurnToRead_steps (s : State) : I2cSteps s (i2cTurnToRead s).2 := by
  unfold i2cTurnToRead
  split
  · exact .refl s
  · exact (i2cRstart_steps s).trans (i2cAddrPhase_steps true true _)

theorem i2cReadTransfer_steps (cs : List Byte) (n : Nat) (s : State) : I2cSteps s (i2cReadTransfer cs n s).2.2 := by
  unfold i2cReadTransfer
  split
  · exact .refl s
  · split
    · exact (i2cStart_steps _).trans ((i2cAddrPhase_steps true false _).trans (i2cReadPhase_steps n _))
    · exact (ifAcked_steps (ifAcked_steps ((i2cStart_steps _).trans (i2cAddrPhase_steps false false _))
        (i2cTxAll_steps cs)) i2cTurnToRead_steps).trans (i2cReadPhase_steps n _)

theorem i2cRead_steps (cs : List Byte) (n : Nat) (s : State) : I2cSteps s (i2cRead cs n s).2.2 :=
  (clearByteCount_steps s).trans (i2cReadTransfer_steps cs n _)

/-- A write leaves the bus idle with both lines released (R212). -/
theorem i2cWrite_closed (bs : List Byte) (s : State) : (i2cWrite bs s).2.i2cs = i2cClosed := rfl

/-- A read of at least one byte leaves the bus idle with both lines released (R212). -/
theorem i2cReadTransfer_closed (cs : List Byte) (n : Nat) (s : State) (hn : n ≠ 0) :
    (i2cReadTransfer cs n s).2.2.i2cs = i2cClosed := by
  have phase : ∀ a : Bool × State, (i2cReadPhase n a).2.2.i2cs = i2cClosed := by
    intro a
    unfold i2cReadPhase
    split <;> rfl
  rw [i2cReadTransfer, if_neg hn]
  split
  · exact phase _
  · exact phase _

theorem i2cRead_closed (cs : List Byte) (n : Nat) (s : State) (hn : n ≠ 0) : (i2cRead cs n s).2.2.i2cs = i2cClosed :=
  i2cReadTransfer_closed cs n _ hn

/-- A failed read returns no byte, a read that went well exactly `n` (R197, R198). -/
theorem i2cReadTransfer_length (cs : List Byte) (n : Nat) (s : State) :
    (i2cReadTransfer cs n s).2.1.length = if (i2cReadTransfer cs n s).1 then n else 0 := by
  have phase : ∀ a : Bool × State, (i2cReadPhase n a).2.1.length = if (i2cReadPhase n a).1 then n else 0 := by
    intro a
    unfold i2cReadPhase
    split
    · rfl
    · simp [i2cRxAll_length]
  unfold i2cReadTransfer
  split
  · rename_i h
    simp [h]
  · split
    · exact phase _
    · exact phase _

theorem i2cRead_length (cs : List Byte) (n : Nat) (s : State) :
    (i2cRead cs n s).2.1.length = if (i2cRead cs n s).1 then n else 0 := i2cReadTransfer_length cs n _

/-! The TW engine. -/

/-- A change of the TW engine's own state that leaves its lines alone. -/
theorem Effect.tws {kind : Event → Bool} (s : State) (t : TwState) (stb : t.stb = s.tws.stb) (clk : t.clk = s.tws.clk)
    (dio : t.dio = s.tws.dio) : Effect kind s { s with tws := t } :=
  .quiet rfl rfl rfl rfl rfl rfl rfl rfl rfl rfl (fun p => by cases p <;> simp [wireLevel, stb, clk, dio])

theorem twBegin_steps (s : State) : TwSteps s (twBegin s) := by
  refine ⟨?_, rfl, rfl, id⟩
  refine (setStb_effect s false).trans ((delay_effect _ (d3 s) rfl).trans ?_)
  exact .quiet rfl rfl rfl rfl rfl rfl rfl rfl rfl rfl (fun p => by cases p <;> rfl)

theorem twEnd_steps (s : State) : TwSteps s (twEnd s) := by
  refine ⟨?_, rfl, rfl, id⟩
  exact (setStb_effect s true).trans ((relDio_effect _).trans ((Effect.tws _ _ rfl rfl rfl).trans
    ((delay_effect _ (d3 s) rfl).trans (Effect.tws _ _ rfl rfl rfl))))

theorem twTxBit_steps (b : Bool) (s : State) : TwSteps s (twTxBit b s) := by
  refine ⟨?_, rfl, rfl, id⟩
  exact (setClk_effect s false).trans ((setDio_effect _ b).trans ((delay_effect _ (d3 s) rfl).trans
    ((setClk_effect _ true).trans ((delay_effect _ (d3 s) rfl).trans (Effect.tws _ _ rfl rfl rfl)))))

theorem twRxBit_steps (s : State) : TwSteps s (twRxBit s).2 := by
  refine ⟨?_, rfl, rfl, id⟩
  exact (setClk_effect s false).trans ((delay_effect _ (d3 s) rfl).trans ((readPin_effect _ .dio (fun _ => rfl)).trans
    ((setClk_effect _ true).trans ((delay_effect _ (d3 s) rfl).trans (Effect.tws _ _ rfl rfl rfl)))))

theorem twTxBits_effect (n : Nat) (s : State) : Effect twEvent s (twTxBits n s) := by
  induction n generalizing s with
  | zero => exact .refl _ s
  | succ n ih => exact (twTxBit_steps _ s).effect.trans ((Effect.dp _ _).trans (ih _))

theorem twRxBits_effect (n : Nat) (s : State) : Effect twEvent s (twRxBits n s) := by
  induction n generalizing s with
  | zero => exact .refl _ s
  | succ n ih => exact (twRxBit_steps s).effect.trans ((Effect.dp _ _).trans (ih _))

theorem twTxByte_steps (x : Byte) (s : State) : TwSteps s (twTxByte x s) := by
  refine ⟨(Effect.dp s _).trans ((twTxBits_effect 8 _).trans (Effect.dp _ _)), ?_, ?_, fun legal => ?_⟩ <;> rw [twTxByte_eq]
  · rfl
  · rfl
  · exact ⟨by simp, legal.2⟩

theorem twRxByte_steps (s : State) : TwSteps s (twRxByte s).2 := by
  refine ⟨(Effect.dp s _).trans ((twRxBits_effect 8 _).trans (Effect.dp _ _)), ?_, ?_, fun legal => ?_⟩ <;> rw [twRxByte_eq]
  · rfl
  · rfl
  · exact ⟨by simp, legal.2⟩

theorem twSwitch_steps (x : TwDir) (s : State) : TwSteps s (twSwitch x s) := by
  unfold twSwitch
  split
  · exact .refl s
  · cases x with
    | output => exact ⟨Effect.tws _ _ rfl rfl rfl, rfl, rfl, id⟩
    | input =>
      refine ⟨?_, rfl, rfl, id⟩
      exact (relDio_effect s).trans ((delay_effect _ (d3 s) rfl).trans (Effect.tws _ _ rfl rfl rfl))

theorem twTxAll_steps (bs : List Byte) (s : State) : TwSteps s (twTxAll bs s) := by
  induction bs generalizing s with
  | nil => exact .refl s
  | cons b bs ih => exact (twTxByte_steps b s).trans (ih _)

theorem twRxAll_steps (n : Nat) (s : State) : TwSteps s (twRxAll n s).2 := by
  induction n generalizing s with
  | zero => exact .refl s
  | succ n ih => exact (twRxByte_steps s).trans (ih _)

theorem twRxAll_length (n : Nat) (s : State) : (twRxAll n s).1.length = n := by
  induction n generalizing s with
  | zero => rfl
  | succ n ih => simp [twRxAll, ih]

theorem twClearByteCount_steps (s : State) : TwSteps s (clearByteCount s) := ⟨Effect.dp s _, rfl, rfl, id⟩

theorem twWriteFrame_steps (bs : List Byte) (s : State) : TwSteps s (twWriteFrame bs s) :=
  (twBegin_steps _).trans ((twSwitch_steps _ _).trans ((twTxAll_steps bs _).trans (twEnd_steps _)))

theorem twWrite_steps (bs : List Byte) (s : State) : TwSteps s (twWrite bs s) :=
  (twClearByteCount_steps s).trans (twWriteFrame_steps bs _)

theorem twReadFrame_steps (cs : List Byte) (n : Nat) (s : State) : TwSteps s (twReadFrame cs n s).2 := by
  unfold twReadFrame
  split
  · exact .refl s
  · refine (twBegin_steps _).trans (TwSteps.trans (t := twCommandBytes cs _) ?_
      ((twSwitch_steps _ _).trans ((twRxAll_steps n _).trans (twEnd_steps _))))
    unfold twCommandBytes
    split
    · exact .refl _
    · exact (twSwitch_steps _ _).trans (twTxAll_steps cs _)

theorem twRead_steps (cs : List Byte) (n : Nat) (s : State) : TwSteps s (twRead cs n s).2 := by
  refine TwSteps.trans ?_ (twReadFrame_steps cs n _)
  split
  · exact .refl s
  · exact twClearByteCount_steps s

theorem twReadFrame_length (cs : List Byte) (n : Nat) (s : State) : (twReadFrame cs n s).1.length = n := by
  unfold twReadFrame
  split
  · rename_i h
    simp [h]
  · exact twRxAll_length n _

theorem twRead_length (cs : List Byte) (n : Nat) (s : State) : (twRead cs n s).1.length = n := twReadFrame_length cs n _

/-! What the I2C operations send, as bytes with their bit orders. -/

theorem ifAcked_done (a : Bool × State) : ifAcked a (fun t => (false, t)) = a := by
  unfold ifAcked
  obtain ⟨b, t⟩ := a
  cases b <;> rfl

theorem i2cTxOrdered_cfg (lsb : Bool) (x : Byte) (s : State) : (i2cTxOrdered lsb x s).2.cfg = s.cfg :=
  (i2cTxOrdered_steps lsb x s).effect.cfg

theorem i2cTxAll_send (bs : List Byte) (s : State) : i2cTxAll bs s = i2cSend (wireBytes s.cfg.i2c [] bs) s := by
  induction bs generalizing s with
  | nil => rfl
  | cons b bs ih =>
    rw [i2cTxAll, i2cTxByte]
    simp only [wireBytes, List.map_nil, List.nil_append, List.map_cons, i2cSend, ifAcked]
    split
    · rfl
    · rw [ih, i2cTxOrdered_cfg]
      simp [wireBytes]

theorem i2cTxAddr_send (x : Byte) (s : State) : i2cTxAddr x s = i2cSend (wireBytes s.cfg.i2c [x] []) s :=
  (ifAcked_done _).symm

theorem i2cAddr10Write_send (s : State) :
    i2cAddr10Write s = i2cSend (wireBytes s.cfg.i2c [addr10Header s.cfg.i2c.addr false, s.cfg.i2c.addr.extractLsb' 0 8] []) s := by
  have two : wireBytes s.cfg.i2c [addr10Header s.cfg.i2c.addr false, s.cfg.i2c.addr.extractLsb' 0 8] [] =
      wireBytes s.cfg.i2c [addr10Header s.cfg.i2c.addr false] [] ++ wireBytes s.cfg.i2c [s.cfg.i2c.addr.extractLsb' 0 8] [] := rfl
  rw [two, i2cSend_append, ← i2cTxAddr_send, i2cAddr10Write]
  unfold ifAcked
  split
  · rfl
  · refine (i2cTxAddr_send _ _).trans ?_
    rw [i2cTxAddr, i2cTxOrdered_cfg]

/-- The address phase of a write (R192). -/
theorem i2cAddrPhase_write (s : State) :
    i2cAddrPhase false false s = i2cSend (wireBytes s.cfg.i2c (writeAddress s.cfg.i2c) []) s := by
  cases h : s.cfg.i2c.amode
  · simp [i2cAddrPhase, writeAddress, h, wireBytes, i2cSend]
  · simp only [i2cAddrPhase, writeAddress, h]
    exact i2cTxAddr_send _ s
  · simp only [i2cAddrPhase, writeAddress, h, Bool.false_and, Bool.false_eq_true, if_false]
    rw [ifAcked_done, i2cAddr10Write_send]

theorem i2cSend_cfg (ws : List (Bool × Byte)) (s : State) : (i2cSend ws s).2.cfg = s.cfg := by
  induction ws generalizing s with
  | nil => rfl
  | cons w ws ih =>
    simp only [i2cSend, ifAcked]
    split
    · exact i2cTxOrdered_cfg _ _ s
    · rw [ih, i2cTxOrdered_cfg]

theorem wireBytes_append (c : I2cCfg) (as bs : List Byte) : wireBytes c as bs = wireBytes c as [] ++ wireBytes c [] bs := by
  simp [wireBytes]

/-- The address phase of a write and the payload (R194). -/
theorem i2cAddressed_send (bs : List Byte) (s : State) :
    ifAcked (i2cAddrPhase false false s) (i2cTxAll bs) = i2cSend (wireBytes s.cfg.i2c (writeAddress s.cfg.i2c) bs) s := by
  rw [wireBytes_append, i2cSend_append, i2cAddrPhase_write]
  unfold ifAcked
  split
  · rfl
  · rw [i2cTxAll_send, i2cSend_cfg]

/-- The whole of a write (R193, R194). -/
theorem i2cWrite_send (bs : List Byte) (s : State) :
    i2cWrite bs s =
      (!(i2cSend (wireBytes s.cfg.i2c (writeAddress s.cfg.i2c) bs) (i2cStart (clearByteCount s))).1,
        i2cStop (i2cSend (wireBytes s.cfg.i2c (writeAddress s.cfg.i2c) bs) (i2cStart (clearByteCount s))).2) := by
  rw [i2cWrite, i2cAddressed_send]
  rfl

/-- A write whose bytes are all acknowledged at once (R194). -/
theorem i2cWrite_acked (bs : List Byte) (s : State)
    (acks : acksAtOnce s ((writeAddress s.cfg.i2c).length + bs.length)) :
    i2cWrite bs s = (true,
      withEvents (transactionEvents s.cfg.i2c (dI2c s) bs)
        (afterAnswers (2 * ((writeAddress s.cfg.i2c).length + bs.length))
          { s with
            dp := dpAfterAcked ((writeAddress s.cfg.i2c).length + bs.length) { s.dp with bytecnt := 0 }
            i2cs := i2cClosed
            status :=
              { s.status with acked := ackedAfter ((writeAddress s.cfg.i2c).length + bs.length) s.status.acked } })) := by
  have count : (wireBytes s.cfg.i2c (writeAddress s.cfg.i2c) bs).length = (writeAddress s.cfg.i2c).length + bs.length := by
    simp [wireBytes]
  rw [i2cWrite_send, i2cSend_acked _ _ (by rw [count]; exact acks), i2cStop_eq, i2cStart_eq, count]
  refine Prod.ext rfl (State.eq_of_fields ?_ ?_ ?_ ?_ ?_ ?_ ?_ ?_ ?_ ?_ ?_ ?_) <;>
    simp [transactionEvents, i2cClosed, dI2c]

end Sys2Proof.Machine
end

