-- ==== Sys2Proof/Laws/Backends.lean ====
section
/-! SUPPORT. What the backend procedures may change (44_backends.md R345, 42_controller.md R241, R260), and what a command's
checks can answer (60_exceptions.md R408). -/

namespace Sys2Proof.Machine

/-! Commands. -/

theorem finished_begin (rc : RC) (s : State) : finished rc (begin s) = rejected rc s := rfl

@[simp] theorem finish_eq (rc : RC) (s : State) : finish rc s = .next (finished rc s) := rfl

@[simp] theorem raise_eq (rc : RC) (s : State) : raise rc s = .next (finished rc s) := rfl

theorem illegal_eq (s : State) : illegal s = .next (rejected .illegal s) := rfl

/-- What a command can answer: SEQ, LENGTH, or what its body answers (R408). -/
theorem command_cases {seqOk : Bool} {need : Nat} {txp : List Byte} {body : State → Result} {s t : State}
    (h : command seqOk need txp body s = .next t) :
    (seqOk = false ∧ t = rejected .seq s) ∨ (seqOk = true ∧ txp.length ≠ need ∧ t = rejected .length s) ∨
      (seqOk = true ∧ txp.length = need ∧ body (begin s) = .next t) := by
  unfold command at h
  split at h
  · split at h
    · exact .inr (.inr ⟨by assumption, by assumption, h⟩)
    · refine .inr (.inl ⟨by assumption, by assumption, ?_⟩)
      injection h with h
      exact h.symm
  · refine .inl ⟨by simpa using ‹¬seqOk = true›, ?_⟩
    injection h with h
    exact h.symm

theorem command_seq {need : Nat} {txp : List Byte} {body : State → Result} {seqOk : Bool} {s : State} (h : seqOk = false) :
    command seqOk need txp body s = .next (rejected .seq s) := by
  subst h
  rfl

theorem command_length {need : Nat} {txp : List Byte} {body : State → Result} {seqOk : Bool} {s : State} (h : seqOk = true)
    (length : txp.length ≠ need) : command seqOk need txp body s = .next (rejected .length s) := by
  subst h
  simp [command, length, finished_begin]

theorem command_runs {need : Nat} {txp : List Byte} {body : State → Result} {seqOk : Bool} {s : State} (h : seqOk = true)
    (length : txp.length = need) : command seqOk need txp body s = body (begin s) := by
  simp [command, h, length]

@[simp] theorem i2cIdle_iff (s : State) : i2cIdle s = true ↔ s.i2cs.bus = .idle := by simp [i2cIdle]

@[simp] theorem twIdle_iff (s : State) : twIdle s = true ↔ s.tws.frame = .idle := by simp [twIdle]

@[simp] theorem twBoundary_iff (s : State) : twBoundary s = true ↔ s.tws.bitcnt = 0 := by simp [twBoundary]

/-! Backends. -/

/-- The events a controller command may emit. -/
def busEvent (e : Event) : Bool := i2cEvent e || twEvent e

theorem busEvent_of_i2c (e : Event) (h : i2cEvent e = true) : busEvent e = true := by simp [busEvent, h]

theorem busEvent_of_tw (e : Event) (h : twEvent e = true) : busEvent e = true := by simp [busEvent, h]

/-- Both engines rest: no transaction, no frame, the lines as they are left between commands (41_i2c.md R182, 70 R451). -/
def Rested (s : State) : Prop :=
  s.i2cs = i2cClosed ∧ s.tws.frame = .idle ∧ s.tws.dir = .input ∧ s.tws.bitcnt = 0 ∧ s.tws.dio = .input

/-- What the bus steps of a controller command may change. -/
structure BusSteps (s t : State) : Prop where
  effect : Effect busEvent s t
  legal : DpLegal s → DpLegal t
  rested : Rested s → Rested t

theorem BusSteps.refl (s : State) : BusSteps s s := ⟨.refl _ s, id, id⟩

theorem BusSteps.trans {s t u : State} (a : BusSteps s t) (b : BusSteps t u) : BusSteps s u :=
  ⟨a.effect.trans b.effect, fun h => b.legal (a.legal h), fun h => b.rested (a.rested h)⟩

theorem I2cSteps.bus {s t : State} (a : I2cSteps s t) (closed : s.i2cs = i2cClosed → t.i2cs = i2cClosed) : BusSteps s t :=
  ⟨a.effect.mono busEvent_of_i2c, a.legal, fun h => ⟨closed h.1, by rw [a.tws]; exact h.2⟩⟩

theorem TwSteps.bus {s t : State} (a : TwSteps s t)
    (closed : t.tws.frame = .idle ∧ t.tws.dir = .input ∧ t.tws.bitcnt = 0 ∧ t.tws.dio = .input) : BusSteps s t :=
  ⟨a.effect.mono busEvent_of_tw, a.legal, fun h => ⟨a.i2cs.trans h.1, closed⟩⟩

theorem delay_steps (n : Nat) (s : State) : BusSteps s (delay n s) := ⟨delay_effect s n rfl, id, id⟩

theorem busWrite_steps (cs ds : List Byte) (s : State) : BusSteps s (busWrite cs ds s).2 := by
  unfold busWrite
  split
  · refine (twWriteFrame_steps _ s).bus ?_
    rw [twWriteFrame_eq]
    exact ⟨rfl, rfl, rfl, rfl⟩
  · exact ((clearAcked_steps s).trans (i2cWrite_steps _ _)).bus (fun _ => rfl)
  · exact .refl s

theorem busRead_steps (cs : List Byte) (n : Nat) (s : State) : BusSteps s (busRead cs n s).2.2 := by
  unfold busRead
  split
  · by_cases hn : n = 0
    · subst hn
      exact .refl s
    · refine (twReadFrame_steps cs n s).bus ?_
      simp only [twReadFrame, hn, if_false]
      exact ⟨rfl, rfl, rfl, rfl⟩
  · refine (i2cReadTransfer_steps cs n s).bus fun h => ?_
    by_cases hn : n = 0
    · subst hn
      exact h
    · exact i2cReadTransfer_closed cs n s hn
  · exact .refl s

theorem run_steps (cmds : List Cmd) (s : State) : BusSteps s (run cmds s).2 := by
  induction cmds generalizing s with
  | nil => exact .refl s
  | cons c cmds ih =>
    cases c with
    | w cs ds => exact (busWrite_steps cs ds s).trans (ih _)
    | d n => exact (delay_steps n s).trans (ih _)

/-- Where the parameter has no entry, every backend is on its default bus (R343). -/
theorem busOf_default {p : Params} (h : p.bus = []) (b : Backend) : busOf p b = defaultBus b := by simp [busOf, h]

/-- A list of bus commands runs as its parts do, one after the other (R345). -/
theorem run_append (a b : List Cmd) (s : State) :
    run (a ++ b) s = ((run a s).1 && (run b (run a s).2).1, (run b (run a s).2).2) := by
  induction a generalizing s with
  | nil => simp [run]
  | cons c a ih => cases c <;> simp [run, ih, Bool.and_assoc]

/-- A level in 0..7 is its own low three bits (R349). -/
theorem low_level {l : Byte} (h : l.toNat < 8) : l &&& 0x07 = l := by
  refine BitVec.eq_of_toNat_eq ?_
  rw [BitVec.toNat_and]
  exact (Nat.and_two_pow_sub_one_eq_mod l.toNat 3).trans (Nat.mod_eq_of_lt h)

theorem rawRead_steps (n : Nat) (s : State) : BusSteps s (rawRead n s).2.2 := by
  unfold rawRead
  split
  · exact .refl s
  · exact busRead_steps _ n s

theorem ledInitTw_steps (s : State) : BusSteps s (ledInitTw s).2 := by
  unfold ledInitTw
  refine BusSteps.trans (t := ledLines s)
    ⟨?_, id, fun h => ⟨h.1, h.2.1, rfl, h.2.2.2.1, rfl⟩⟩ (run_steps _ _)
  have lines : Effect twEvent s (relDio (setClk true (setStb true s))) :=
    (setStb_effect s true).trans ((setClk_effect _ true).trans (relDio_effect _))
  have turned := Effect.tws (kind := twEvent) (relDio (setClk true (setStb true s)))
    { (relDio (setClk true (setStb true s))).tws with dir := .input } rfl rfl rfl
  exact (lines.trans (turned.trans (delay_effect _ (d3 s) rfl))).mono busEvent_of_tw

theorem backendInit_steps (s : State) : BusSteps s (backendInit s).2 := by
  unfold backendInit
  split
  · split
    · exact ledInitTw_steps s
    · exact run_steps _ s
    · exact .refl s
  · exact run_steps _ s
  · exact run_steps _ s
  · exact run_steps _ s
  · exact .refl s

theorem ledEmit_steps (s : State) : BusSteps s (ledEmit s).2 := by
  unfold ledEmit
  split
  · exact run_steps _ s
  · exact run_steps _ s
  · exact .refl s

theorem sendBrightness_steps (s : State) : BusSteps s (sendBrightness s).2 := run_steps _ s

/-- What `init_body` may change: ACTIVE, I2CCFG.ADDR and I2CCFG.AMODE besides what the bus changes (R241). -/
structure InitSteps (s t : State) : Prop where
  seq : t.seq = s.seq
  wbuf : t.wbuf = s.wbuf
  rxq : t.rxq = s.rxq
  refused : t.refused = s.refused
  par : t.par = s.par
  inbox : t.env.inbox = s.env.inbox
  rc : t.status.rc = s.status.rc
  ctlr : t.ctlr = { s.ctlr with active := t.ctlr.active }
  active : t.ctlr.active = backendOf s.par s.ctlr.desc ∨ t.ctlr.active = .dummy
  td3 : t.cfg.td3 = s.cfg.td3
  i2c : t.cfg.i2c = { s.cfg.i2c with addr := t.cfg.i2c.addr, amode := t.cfg.i2c.amode }
  emits : ∃ es : List Event, t.env.traceRev = es.reverse ++ s.env.traceRev ∧ (∀ e ∈ es, busEvent e = true) ∧
    ∀ p, wireLevel t p = es.foldl (levelAfter p) (wireLevel s p)
  legal : DpLegal s → DpLegal t
  rested : Rested s → Rested t

theorem wireLevel_registers (s : State) (cfg : EngineCfg) (ctlr : Ctlr) (p : Pin) :
    wireLevel { s with cfg := cfg, ctlr := ctlr } p = wireLevel s p := by
  cases p <;> rfl

theorem InitSteps.step {s t u : State} (a : InitSteps s t) (b : BusSteps t u) : InitSteps s u := by
  have active : u.ctlr.active = t.ctlr.active := by rw [b.effect.ctlr]
  obtain ⟨es, ea, ka, la⟩ := a.emits
  obtain ⟨fs, eb, kb, lb⟩ := b.effect.emits
  refine ⟨b.effect.seq.trans a.seq, b.effect.wbuf.trans a.wbuf, b.effect.rxq.trans a.rxq, b.effect.refused.trans a.refused,
    b.effect.par.trans a.par, b.effect.inbox.trans a.inbox, b.effect.rc.trans a.rc, ?_, ?_, ?_, ?_, ⟨es ++ fs, ?_, ?_, ?_⟩,
    fun h => b.legal (a.legal h), fun h => b.rested (a.rested h)⟩
  · rw [b.effect.ctlr]
    exact a.ctlr
  · rw [b.effect.ctlr]
    exact a.active
  · rw [b.effect.cfg]
    exact a.td3
  · rw [b.effect.cfg]
    exact a.i2c
  · simp [eb, ea]
  · intro e he
    rcases List.mem_append.mp he with h | h
    · exact ka e h
    · exact kb e h
  · intro p
    rw [List.foldl_append, lb p, la p]

theorem applyAddress_steps (s : State) : InitSteps s (applyAddress (setActive (backendOf s.par s.ctlr.desc) s)) := by
  unfold applyAddress
  split
  · exact ⟨rfl, rfl, rfl, rfl, rfl, rfl, rfl, rfl, .inl rfl, rfl, rfl, ⟨[], rfl, by simp, fun p => by cases p <;> rfl⟩, id, id⟩
  · exact ⟨rfl, rfl, rfl, rfl, rfl, rfl, rfl, rfl, .inl rfl, rfl, rfl, ⟨[], rfl, by simp, fun p => by cases p <;> rfl⟩, id, id⟩

theorem InitSteps.setActive {s t : State} (a : InitSteps s t) (b : Backend) (hb : b = t.ctlr.active ∨ b = .dummy) :
    InitSteps s (setActive b t) := by
  obtain ⟨es, ea, ka, la⟩ := a.emits
  refine ⟨a.seq, a.wbuf, a.rxq, a.refused, a.par, a.inbox, a.rc, ?_, ?_, a.td3, a.i2c, ⟨es, ea, ka, fun p => ?_⟩, a.legal,
    a.rested⟩
  · rw [setActive_ctlr, a.ctlr]
  · rcases hb with rfl | rfl
    · exact a.active
    · exact .inr rfl
  · rw [← la p]
    cases p <;> rfl

theorem startByteCount_steps (s : State) : BusSteps s (startByteCount s) := by
  unfold startByteCount
  split
  · exact ⟨Effect.dp s _, id, id⟩
  · exact .refl s

theorem initBody_steps (s : State) : InitSteps s (initBody s).2 := by
  have head := applyAddress_steps s
  unfold initBody
  refine InitSteps.step (InitSteps.step (InitSteps.step
    (t := probeTarget (applyAddress (Machine.setActive (backendOf s.par s.ctlr.desc) s))) ?_ (startByteCount_steps _))
    (backendInit_steps _)) (sendBrightness_steps _)
  unfold probeTarget
  split
  · refine (head.step (busWrite_steps [] [] _)).setActive _ ?_
    split
    · exact .inl rfl
    · exact .inr rfl
  · exact head

end Sys2Proof.Machine
end

