-- ==== Sys2Proof/Laws/Transactions.lean ====
section
/-! SUPPORT. Whole I2C transactions, once: where a byte is not acknowledged, where the poll times out, reads, and lists of bus
commands (41_i2c.md R193, R194, R197, R198; 44_backends.md R345). -/

namespace Sys2Proof.Machine

theorem dpAfterAcked_bytecnt (n : Nat) (dp : Datapath) : (dpAfterAcked n dp).bytecnt = dp.bytecnt + BitVec.ofNat 12 n := by
  unfold dpAfterAcked
  split
  · rename_i h
    simp [h]
  · rfl

theorem dpAfterAcked_add (m n : Nat) (dp : Datapath) : dpAfterAcked n (dpAfterAcked m dp) = dpAfterAcked (m + n) dp := by
  unfold dpAfterAcked
  rcases Nat.eq_zero_or_pos m with rfl | hm
  · simp
  · rcases Nat.eq_zero_or_pos n with rfl | hn
    · simp
    · simp [Nat.ne_of_gt hm, Nat.ne_of_gt hn, BitVec.ofNat_add, BitVec.add_assoc]

theorem i2csAfterSent_bus (n : Nat) (i : I2cState) : (i2csAfterSent n i).bus = i.bus := by
  unfold i2csAfterSent
  split <;> rfl

theorem bytecnt_add (x : BitVec 12) (n : Nat) : x + BitVec.ofNat 12 n + 1#12 = x + BitVec.ofNat 12 (n + 1) := by
  rw [BitVec.add_assoc, BitVec.ofNat_add]

/-- Bytes acknowledged at once, then one that is not (R193). -/
theorem i2cSend_nack (as : List (Bool × Byte)) (w : Bool × Byte) (rest : List (Bool × Byte)) (s : State)
    (acks : acksAtOnce s as.length) (high : answerAt s (2 * as.length) = true) (nack : answerAt s (2 * as.length + 1) = true) :
    i2cSend (as ++ w :: rest) s = (true,
      withEvents (sentEvents (dI2c s) as ++ i2cByteEvents w.1 (dI2c s) 0 true w.2)
        (afterAnswers (2 * as.length + 2)
          { s with
            dp := { sr := 0, bitcnt := 8, bytecnt := s.dp.bytecnt + BitVec.ofNat 12 (as.length + 1), tmocnt := 0 }
            i2cs := { s.i2cs with sda := .rel, scl := .low }
            status := { s.status with acked := ackedAfter as.length s.status.acked } })) := by
  have sent := i2cSend_acked as s acks
  have byte := i2cTxOrdered_sampled w.1 w.2 0 (i2cSend as s).2 (by
    rw [sent]
    exact ⟨Nat.zero_le _, fun j hj => absurd hj (Nat.not_lt_zero j), by simpa using high⟩)
  have bit : answerAt (i2cSend as s).2 (0 + 1) = true := by
    rw [sent]
    simpa using nack
  rw [i2cSend_append]
  simp only [ifAcked, i2cSend, sent, Bool.false_eq_true, if_false]
  rw [sent] at byte bit
  simp only [byte, bit, if_true]
  refine Prod.ext rfl (State.eq_of_fields ?_ ?_ ?_ ?_ ?_ ?_ ?_ ?_ ?_ ?_ ?_ ?_) <;>
    simp [dpAfterAcked_bytecnt, i2csAfterSent_bus, bytecnt_add, dI2c, Nat.add_assoc]

/-- Bytes acknowledged at once, then one whose ACK poll times out (R188, R193). -/
theorem i2cSend_stuck (as : List (Bool × Byte)) (w : Bool × Byte) (rest : List (Bool × Byte)) (s : State)
    (acks : acksAtOnce s as.length) (low : ∀ j, j ≤ s.cfg.i2c.tack.toNat → answerAt s (2 * as.length + j) = false) :
    i2cSend (as ++ w :: rest) s = (true,
      withEvents (sentEvents (dI2c s) as ++ (bitsIn w.1 w.2).flatMap (i2cBitEvents (dI2c s)) ++
          i2cTimeoutEvents (dI2c s) s.cfg.i2c.tack.toNat)
        (afterAnswers (2 * as.length + s.cfg.i2c.tack.toNat + 1)
          { s with
            dp :=
              { sr := 0, bitcnt := 8, bytecnt := s.dp.bytecnt + BitVec.ofNat 12 (as.length + 1), tmocnt := s.cfg.i2c.tack }
            i2cs := { s.i2cs with sda := .rel, scl := .low }
            status := { s.status with tmo := true, acked := ackedAfter as.length s.status.acked } })) := by
  have sent := i2cSend_acked as s acks
  have byte := i2cTxOrdered_stuck w.1 w.2 (i2cSend as s).2 (by
    rw [sent]
    intro j hj
    simpa using low j hj)
  rw [i2cSend_append]
  simp only [ifAcked, i2cSend, sent, Bool.false_eq_true, if_false]
  rw [sent] at byte
  simp only [byte, if_true]
  refine Prod.ext rfl (State.eq_of_fields ?_ ?_ ?_ ?_ ?_ ?_ ?_ ?_ ?_ ?_ ?_ ?_) <;>
    simp [dpAfterAcked_bytecnt, i2csAfterSent_bus, bytecnt_add, dI2c, Nat.add_assoc]

theorem i2cReadEvents_succ (d n : Nat) (f : Nat → Bool) :
    i2cReadEvents d (n + 1) f = i2cReceiveEvents d (decide (n = 0)) f ++ i2cReadEvents d n (fun k => f (8 + k)) := by
  have zero : decide (0 + 1 = n + 1) = decide (n = 0) := by
    congr 1
    simp
  rw [i2cReadEvents, range_succ_flatMap, zero]
  refine congrArg₂ _ (by simp) ?_
  refine congrArg (fun g => List.flatMap g (List.range n)) (funext fun j => ?_)
  have last : decide (j + 1 + 1 = n + 1) = decide (j + 1 = n) := by simp
  rw [last]
  exact congrArg (i2cReceiveEvents d _) (funext fun i => congrArg f (by omega))

/-- How SDA is left after received bytes: as the initiator's last acknowledge bit put it. -/
def sdaAfterRead (n : Nat) (sda : I2cDrive) : I2cDrive := if n = 0 then sda else .rel

/-- Received bytes, all acknowledged but the last (R197, R198). -/
theorem i2cRxAll_eq (n : Nat) (s : State) :
    i2cRxAll n s = (bytesSampled s.cfg.i2c.lsbf n (answerAt s),
      withEvents (i2cReadEvents (dI2c s) n (answerAt s))
        (afterAnswers (8 * n)
          { s with
            dp := dpAfterRead n s.cfg.i2c.lsbf 9 (answerAt s) s.dp
            i2cs := (i2cRxAll n s).2.i2cs })) := by
  induction n generalizing s with
  | zero => rfl
  | succ n ih =>
    have later : ∀ es x y, answerAt (withEvents es (afterAnswers 8 { s with dp := x, i2cs := y })) =
        fun j => answerAt s (8 + j) := fun _ _ _ => answerAt_later 8 rfl rfl
    have rest := ih (i2cRxByte (decide (n = 0)) s).2
    have lines : (i2cRxAll (n + 1) s).2.i2cs = (i2cRxAll n (i2cRxByte (decide (n = 0)) s).2).2.i2cs := rfl
    rw [lines, i2cRxAll]
    generalize (i2cRxAll n (i2cRxByte (decide (n = 0)) s).2).2.i2cs = i at rest
    simp only [rest]
    simp only [i2cRxByte_eq, later]
    rw [bytesSampled_succ, i2cReadEvents_succ]
    refine Prod.ext rfl (State.eq_of_fields (dpAfterRead_step n s.cfg.i2c.lsbf 9 (answerAt s) s.dp) ?_ ?_ ?_ ?_ ?_ ?_ ?_ ?_ ?_ ?_ ?_) <;>
      simp [dI2c, Nat.mul_add, Nat.add_assoc, Nat.add_comm]

/-- The repeated START and the read address of a combined read (R192, R197). -/
theorem i2cTurnToRead_send (s : State) :
    i2cTurnToRead s = match s.cfg.i2c.amode with
      | .none => (false, s)
      | _ => i2cSend (wireBytes s.cfg.i2c (readAddress s.cfg.i2c) []) (i2cRstart s) := by
  have cfg : (i2cRstart s).cfg = s.cfg := rfl
  unfold i2cTurnToRead
  cases mode : s.cfg.i2c.amode
  · rfl
  · simp only [i2cAddrPhase, cfg, mode, readAddress, i2cTxAddr_send]
  · simp only [i2cAddrPhase, cfg, mode, readAddress, i2cTxAddr_send, Bool.and_self, if_true]

theorem ifAcked_congr (a : Bool × State) (f g : State → Bool × State) (h : a.1 = false → f a.2 = g a.2) :
    ifAcked a f = ifAcked a g := by
  unfold ifAcked
  split
  · rfl
  · exact h (by simpa using ‹¬a.1 = true›)

/-- What a read sends before its first received byte (R197, R198). -/
def i2cReadHead (cs : List Byte) (s : State) : Bool × State :=
  ifAcked (i2cSend (readRequest s.cfg.i2c cs).1 (i2cStart s))
    (fun t => if (readRequest s.cfg.i2c cs).2.isEmpty then (false, t) else i2cSend (readRequest s.cfg.i2c cs).2 (i2cRstart t))

/-- A read in terms of the bytes it sends (R197, R198). -/
theorem i2cReadTransfer_send (cs : List Byte) (n : Nat) (s : State) (hn : n ≠ 0) :
    i2cReadTransfer cs n s = i2cReadPhase n (i2cReadHead cs s) := by
  have cfg : (i2cStart s).cfg = s.cfg := rfl
  rw [i2cReadTransfer, if_neg hn]
  split
  · rename_i h
    rw [i2cReadData]
    congr 1
    unfold i2cReadHead i2cAddrPhase readRequest
    cases mode : s.cfg.i2c.amode
    · obtain rfl : cs = [] := by simpa using h
      simp [cfg, mode, wireBytes, i2cSend, ifAcked]
    · simp only [cfg, mode, h, if_true, List.isEmpty_nil, ifAcked_done, i2cTxAddr_send, readAddress]
    · obtain rfl : cs = [] := by simpa using h
      simp only [cfg, mode, Bool.and_false, Bool.false_eq_true, if_false, if_true, i2cAddr10Write_send, writeAddress,
        readAddress]
      refine ifAcked_congr _ _ _ fun _ => ?_
      have filled : (wireBytes s.cfg.i2c [addr10Header s.cfg.i2c.addr true] []).isEmpty = false := rfl
      rw [if_neg (by simp [filled]), i2cTxAddr_send]
      have kept : ∀ t : State, (i2cRstart t).cfg = t.cfg := fun _ => rfl
      rw [kept, i2cSend_cfg, cfg]
  · rename_i h
    show i2cReadPhase n (ifAcked (ifAcked _ (i2cTxAll cs)) i2cTurnToRead) = _
    refine congrArg (i2cReadPhase n) ?_
    rw [i2cAddressed_send, i2cReadHead]
    have first : (readRequest s.cfg.i2c cs).1 = wireBytes s.cfg.i2c (writeAddress s.cfg.i2c) cs := by
      unfold readRequest writeAddress
      cases mode : s.cfg.i2c.amode <;> simp [h]
    rw [first, cfg]
    refine ifAcked_congr _ _ _ fun _ => ?_
    rw [i2cTurnToRead_send, i2cSend_cfg, cfg]
    unfold readRequest readAddress
    cases mode : s.cfg.i2c.amode <;> simp [h, wireBytes]

/-- A read whose sent bytes are all acknowledged at once (R197, R198). -/
theorem i2cReadTransfer_acked (cs : List Byte) (n : Nat) (s : State) (hn : n ≠ 0)
    (acks : acksAtOnce s (readRequestLength s.cfg.i2c cs)) :
    i2cReadTransfer cs n s =
      (true, bytesSampled s.cfg.i2c.lsbf n (fun j => answerAt s (2 * readRequestLength s.cfg.i2c cs + j)),
        withEvents (i2cReadTransaction s.cfg.i2c (dI2c s) cs n
            (fun j => answerAt s (2 * readRequestLength s.cfg.i2c cs + j)))
          (afterAnswers (2 * readRequestLength s.cfg.i2c cs + 8 * n)
            { s with
              dp :=
                dpAfterRead n s.cfg.i2c.lsbf 9 (fun j => answerAt s (2 * readRequestLength s.cfg.i2c cs + j))
                  (dpAfterAcked (readRequestLength s.cfg.i2c cs) s.dp)
              i2cs := i2cClosed
              status :=
                { s.status with acked := ackedAfter (readRequestLength s.cfg.i2c cs) s.status.acked } })) := by
  have head : ∃ i, i2cReadHead cs s = (false,
      withEvents (i2cStartEvents (dI2c s) ++ sentEvents (dI2c s) (readRequest s.cfg.i2c cs).1 ++
        (if (readRequest s.cfg.i2c cs).2.isEmpty then []
          else i2cRstartEvents (dI2c s) ++ sentEvents (dI2c s) (readRequest s.cfg.i2c cs).2))
        (afterAnswers (2 * readRequestLength s.cfg.i2c cs)
          { s with
            dp := dpAfterAcked (readRequestLength s.cfg.i2c cs) s.dp
            i2cs := i
            status :=
              { s.status with acked := ackedAfter (readRequestLength s.cfg.i2c cs) s.status.acked } })) := by
    have first := i2cSend_acked (readRequest s.cfg.i2c cs).1 (i2cStart s)
      (fun j hj => acks j (by simp [readRequestLength]; omega))
    unfold i2cReadHead
    rw [first]
    simp only [ifAcked, Bool.false_eq_true, if_false]
    split
    · rename_i h
      have none : (readRequest s.cfg.i2c cs).2 = [] := by simpa using h
      refine ⟨_, Prod.ext rfl (State.eq_of_fields ?_ rfl rfl rfl ?_ rfl rfl rfl rfl rfl ?_ rfl)⟩ <;>
        simp [readRequestLength, none, i2cStart_eq, dI2c]
    · have second := i2cSend_acked (readRequest s.cfg.i2c cs).2
        (i2cRstart (withEvents (sentEvents (dI2c (i2cStart s)) (readRequest s.cfg.i2c cs).1)
          (afterAnswers (2 * (readRequest s.cfg.i2c cs).1.length)
            { i2cStart s with
              dp := dpAfterAcked (readRequest s.cfg.i2c cs).1.length (i2cStart s).dp
              i2cs := i2csAfterSent (readRequest s.cfg.i2c cs).1.length (i2cStart s).i2cs
              status :=
                { (i2cStart s).status with
                  acked :=
                    ackedAfter (readRequest s.cfg.i2c cs).1.length (i2cStart s).status.acked } })))
        (fun j hj => by
          have := acks ((readRequest s.cfg.i2c cs).1.length + j) (by simp [readRequestLength]; omega)
          simpa [answerAt, i2cRstart_eq, i2cStart_eq, Nat.mul_add, Nat.add_assoc] using this)
      rw [second]
      refine ⟨_, Prod.ext rfl (State.eq_of_fields ?_ rfl rfl rfl ?_ rfl rfl rfl rfl rfl ?_ rfl)⟩
      · simp [readRequestLength, i2cStart_eq, i2cRstart_eq, dpAfterAcked_add]
      · simp [readRequestLength, i2cStart_eq, i2cRstart_eq, ackedAfter_ackedAfter]
      · simp [readRequestLength, i2cStart_eq, i2cRstart_eq, dI2c, Nat.mul_add, Nat.add_assoc]
  obtain ⟨i, head⟩ := head
  rw [i2cReadTransfer_send cs n s hn, head, i2cReadPhase]
  simp only [Bool.false_eq_true, if_false]
  rw [i2cRxAll_eq]
  have later : ∀ es k x y z, answerAt (withEvents es (afterAnswers k { s with dp := x, i2cs := y, status := z })) =
      fun j => answerAt s (k + j) := fun _ k _ _ _ => answerAt_later k rfl rfl
  rw [later]
  refine Prod.ext rfl (Prod.ext rfl (State.eq_of_fields ?_ ?_ ?_ ?_ ?_ ?_ ?_ ?_ ?_ ?_ ?_ ?_)) <;>
    simp [i2cStop_eq, i2cReadTransaction, dI2c, i2cClosed, Nat.add_assoc]

/-- I2C.READ_CMD_DATA and its kin with every sent byte acknowledged at once (R197, R198). -/
theorem i2cRead_acked (cs : List Byte) (n : Nat) (s : State) (hn : n ≠ 0)
    (acks : acksAtOnce s (readRequestLength s.cfg.i2c cs)) :
    i2cRead cs n s =
      (true, bytesSampled s.cfg.i2c.lsbf n (fun j => answerAt s (2 * readRequestLength s.cfg.i2c cs + j)),
        withEvents (i2cReadTransaction s.cfg.i2c (dI2c s) cs n
            (fun j => answerAt s (2 * readRequestLength s.cfg.i2c cs + j)))
          (afterAnswers (2 * readRequestLength s.cfg.i2c cs + 8 * n)
            { s with
              dp :=
                dpAfterRead n s.cfg.i2c.lsbf 9 (fun j => answerAt s (2 * readRequestLength s.cfg.i2c cs + j))
                  (dpAfterAcked (readRequestLength s.cfg.i2c cs) { s.dp with bytecnt := 0 })
              i2cs := i2cClosed
              status :=
                { s.status with acked := ackedAfter (readRequestLength s.cfg.i2c cs) s.status.acked } })) :=
  i2cReadTransfer_acked cs n (clearByteCount s) hn acks

theorem runBytes_cons (c : I2cCfg) (cmd : Cmd) (cmds : List Cmd) :
    runBytes c (cmd :: cmds) = cmdBytes c cmd + runBytes c cmds := by
  simp [runBytes]

/-- One bus command over I2C, its bytes all acknowledged at once (R345). -/
theorem busWrite_acked (cs ds : List Byte) (s : State) (bus : busOf s.par s.ctlr.active = .i2c)
    (acks : acksAtOnce s (cmdBytes s.cfg.i2c (.w cs ds))) :
    busWrite cs ds s = (true,
      withEvents (cmdEvents s.cfg.i2c (dI2c s) (.w cs ds))
        (afterAnswers (2 * cmdBytes s.cfg.i2c (.w cs ds))
          { s with
            dp := dpAfterAcked (cmdBytes s.cfg.i2c (.w cs ds)) { s.dp with bytecnt := 0 }
            i2cs := i2cClosed
            status := { s.status with acked := ackedAfter (cmdBytes s.cfg.i2c (.w cs ds)) 0 } })) := by
  unfold busWrite
  rw [bus]
  exact i2cWrite_acked (cs ++ ds) (clearAcked s) acks

/-- A list of bus commands over I2C, their bytes all acknowledged at once (R345). -/
theorem run_acked (cmds : List Cmd) (s : State) (bus : busOf s.par s.ctlr.active = .i2c) (idle : s.i2cs = i2cClosed)
    (acks : acksAtOnce s (runBytes s.cfg.i2c cmds)) :
    run cmds s = (true,
      withEvents (cmds.flatMap (cmdEvents s.cfg.i2c (dI2c s)))
        (afterAnswers (2 * runBytes s.cfg.i2c cmds)
          { s with
            dp := dpOf s.cfg.i2c cmds s.dp
            status := { s.status with acked := ackedOf s.cfg.i2c cmds s.status.acked } })) := by
  induction cmds generalizing s with
  | nil => rfl
  | cons c cmds ih =>
    rw [runBytes_cons] at acks ⊢
    cases c with
    | w cs ds =>
      have first := busWrite_acked cs ds s bus (fun j hj => acks j (by omega))
      have later := ih (busWrite cs ds s).2 (by rw [first]; exact bus) (by rw [first]; rfl) (by
        rw [first]
        intro j hj
        have := acks (cmdBytes s.cfg.i2c (.w cs ds) + j) (by simp at hj; omega)
        simpa [Nat.mul_add, Nat.add_assoc] using this)
      have unfolded : run (.w cs ds :: cmds) s =
          ((busWrite cs ds s).1 && (run cmds (busWrite cs ds s).2).1, (run cmds (busWrite cs ds s).2).2) := rfl
      rw [unfolded, later, first]
      refine Prod.ext rfl (State.eq_of_fields ?_ ?_ ?_ ?_ ?_ ?_ ?_ ?_ ?_ ?_ ?_ ?_) <;>
        simp [dpOf, ackedOf, idle, dI2c, Nat.mul_add, Nat.add_assoc]
    | d n =>
      have none : cmdBytes s.cfg.i2c (.d n) = 0 := rfl
      unfold run
      rw [ih (delay n s) bus idle (fun j hj => acks j (by rw [none]; simpa using hj)), delay_eq, none]
      refine Prod.ext rfl (State.eq_of_fields ?_ ?_ ?_ ?_ ?_ ?_ ?_ ?_ ?_ ?_ ?_ ?_) <;>
        simp [dpOf, ackedOf, dI2c, cmdEvents]

end Sys2Proof.Machine
end

