-- ==== Sys2Proof/Laws/Commands.lean ====
section
/-! SUPPORT. What a command can do, once, for all 55: it is turned away and leaves all but STATUS and RXQ, or its register
writes and then the steps of its unit's engines run (60_exceptions.md R405, R408, R409). -/

namespace Sys2Proof.Machine

/-- The I2C bus state and how its lines are driven fit (41_i2c.md R182). -/
def I2cFits (s : State) : Prop :=
  (s.i2cs.bus = .idle → s.i2cs.sda = .rel ∧ s.i2cs.scl = .rel) ∧ (s.i2cs.bus = .held → s.i2cs.scl = .low)

/-- The TW frame state, the direction and DIO fit (70_reset_and_hazards.md R451). -/
def TwFits (s : State) : Prop :=
  (s.tws.frame = .idle → s.tws.dir = .input ∧ s.tws.bitcnt = 0) ∧ (s.tws.dir = .input → s.tws.dio = .input)

/-- The register writes a command makes before its bus steps (42_controller.md, 43_layout.md R307). -/
def prepared (i : Instr) (s : State) : State :=
  match i with
  | .ctlSetBrightness l _ => setBright l s
  | .ctlSetPower on _ => setPower on s
  | .ctlSetDescriptor txp => setDesc (descOfBytes txp) s
  | .ctlSetIcon id on _ => setIconMask (iconWith s.ctlr.icon (dotMask s id) on) s
  | .ctlWriteRaw n txp => if s.ctlr.active = .led then layOut (rawFrame n.toNat txp) s else s
  | .ctlWriteDisplayFrame _ txp => if s.ctlr.active = .led then layOut (displayFrame s (ddDecode s.par txp)) s else s
  | .ctlSetOrder txp => setOrder txp s
  | .ctlSetIndicatorMask txp => setIconMask (txpWord txp 0) s
  | .ctlSetMode v _ => setMode v s
  | .ctlReloadDefaults _ => reloadDefaults s
  | _ => s

/-- The commands that run INIT (42_controller.md R241, R247, R256). -/
def initialises (i : Instr) : Bool :=
  match i with
  | .ctlInit _ => true
  | .ctlSetDescriptor _ => true
  | .ctlReloadDefaults _ => true
  | _ => false

/-- The operand values that are not rejected (42_controller.md R243, R247). -/
def legalOperands (i : Instr) (s : State) : Prop :=
  match i with
  | .ctlSetBrightness l _ => l.toNat < levels s.par s.ctlr.active
  | .ctlSetDescriptor txp => (txpByte txp 0).toNat < s.par.numTypes
  | _ => True

/-- What the steps of a command's engines may do, by unit. -/
def Moves (i : Instr) (s t : State) : Prop :=
  match unitOf i with
  | 1 => I2cSteps s t ∧ (I2cFits s → I2cFits t)
  | 2 => TwSteps s t ∧ (TwFits s → TwFits t)
  | 3 => if initialises i then InitSteps s t else BusSteps s t
  | 5 => BusSteps s t
  | _ => t = s

/-- A command that passed its checks: its writes, its engine steps, its result. -/
structure Ran (i : Instr) (s t : State) : Prop where
  ready : busReady i s = true
  formed : i.txp.length = i.payloadLength
  legal : legalOperands i s
  result : ∃ u bytes rc, turnedAway rc = false ∧ Moves i (prepared i (begin s)) u ∧ t = finished rc (emitAll bytes u) ∧
    (s.par.version.length ≤ 4095 → bytes.length ≤ 4095)

/-- A command that was turned away. -/
def TurnedAway (s t : State) : Prop := ∃ rc, turnedAway rc = true ∧ rc ≠ .illegal ∧ t = rejected rc s

theorem Moves.i2c {i : Instr} {s t : State} (unit : unitOf i = 1) (steps : I2cSteps s t) (fits : I2cFits s → I2cFits t) :
    Moves i s t := by
  rw [Moves, unit]
  exact ⟨steps, fits⟩

theorem Moves.tw {i : Instr} {s t : State} (unit : unitOf i = 2) (steps : TwSteps s t) (fits : TwFits s → TwFits t) :
    Moves i s t := by
  rw [Moves, unit]
  exact ⟨steps, fits⟩

theorem Moves.initialise {i : Instr} {s t : State} (unit : unitOf i = 3) (h : initialises i = true) (steps : InitSteps s t) :
    Moves i s t := by
  rw [Moves, unit]
  simpa only [h, if_true] using steps

theorem Moves.bus {i : Instr} {s t : State} (unit : unitOf i = 3) (h : initialises i = false) (steps : BusSteps s t) :
    Moves i s t := by
  rw [Moves, unit]
  simpa only [h, if_false, Bool.false_eq_true] using steps

theorem Moves.oled {i : Instr} {s t : State} (unit : unitOf i = 5) (steps : BusSteps s t) : Moves i s t := by
  rw [Moves, unit]
  exact steps

theorem emitAll_nil (s : State) : emitAll [] s = s := by
  simp [emitAll]

theorem turnedAway_ackCode (ok : Bool) : turnedAway (ackCode ok) = false := by
  cases ok <;> rfl

/-- How a command body that ran to its end finishes. -/
theorem ran_result {i : Instr} {s t u : State} {bytes : List Byte} {rc : RC} (e : finish rc (emitAll bytes u) = .next t)
    (code : turnedAway rc = false) (moves : Moves i (prepared i (begin s)) u) (few : bytes.length ≤ 4095) :
    ∃ u bytes rc, turnedAway rc = false ∧ Moves i (prepared i (begin s)) u ∧ t = finished rc (emitAll bytes u) ∧
      (s.par.version.length ≤ 4095 → bytes.length ≤ 4095) := by
  injection e with e
  exact ⟨u, bytes, rc, code, moves, e.symm, fun _ => few⟩

/-- The same for a body that emits nothing. -/
theorem ran_silent {i : Instr} {s t u : State} {rc : RC} (e : finish rc u = .next t) (code : turnedAway rc = false)
    (moves : Moves i (prepared i (begin s)) u) :
    ∃ u bytes rc, turnedAway rc = false ∧ Moves i (prepared i (begin s)) u ∧ t = finished rc (emitAll bytes u) ∧
      (s.par.version.length ≤ 4095 → bytes.length ≤ 4095) :=
  ran_result (bytes := []) (by rw [emitAll_nil]; exact e) code moves (by simp)

/-- A body that refuses leaves what a turned-away command leaves. -/
theorem away_of_raise {s t : State} {rc : RC} (e : raise rc (begin s) = .next t) (away : turnedAway rc = true)
    (named : rc ≠ .illegal) : TurnedAway s t := by
  injection e with e
  exact ⟨rc, away, named, e.symm⟩

/-- A command in the wrong bus state. -/
theorem away_of_seq {need : Nat} {txp : List Byte} {body : State → Result} {seqOk : Bool} {s t : State} (busy : ¬ seqOk = true)
    (h : command seqOk need txp body s = .next t) : TurnedAway s t := by
  rw [command_seq (Bool.eq_false_iff.mpr busy)] at h
  injection h with h
  exact ⟨.seq, rfl, by decide, h.symm⟩

/-- The checks of a command, then its body (R408). -/
theorem of_command {i : Instr} {s t : State} {need : Nat} {txp : List Byte} {body : State → Result} {seqOk : Bool}
    (h : command seqOk need txp body s = .next t) (ready : busReady i s = seqOk) (payload : i.txp = txp)
    (length : i.payloadLength = need)
    (run : body (begin s) = .next t → TurnedAway s t ∨ (legalOperands i s ∧
      ∃ u bytes rc, turnedAway rc = false ∧ Moves i (prepared i (begin s)) u ∧ t = finished rc (emitAll bytes u) ∧
        (s.par.version.length ≤ 4095 → bytes.length ≤ 4095))) :
    TurnedAway s t ∨ Ran i s t := by
  rcases command_cases h with ⟨_, e⟩ | ⟨_, _, e⟩ | ⟨ok, len, e⟩
  · exact .inl ⟨.seq, rfl, by decide, e⟩
  · exact .inl ⟨.length, rfl, by decide, e⟩
  · rcases run e with h | ⟨legal, result⟩
    · exact .inl h
    · exact .inr ⟨ready.trans ok, by rw [payload, len, length], legal, result⟩

theorem i2cFits_closed (s : State) (h : s.i2cs = i2cClosed) : I2cFits s := by
  simp [I2cFits, h, i2cClosed]

theorem len_le (n : Len) : n.toNat ≤ 4095 := by
  have := n.isLt
  omega

theorem i2cRead_fits (cs : List Byte) (n : Nat) (s : State) (h : I2cFits s) : I2cFits (i2cRead cs n s).2.2 := by
  by_cases hn : n = 0
  · subst hn
    exact h
  · exact i2cFits_closed _ (i2cRead_closed cs n s hn)

theorem i2cRead_few (cs : List Byte) (n : Nat) (s : State) (h : n ≤ 4095) : (i2cRead cs n s).2.1.length ≤ 4095 := by
  rw [i2cRead_length]
  split
  · exact h
  · exact Nat.zero_le _

theorem i2cFits_low {s t : State} (bus : t.i2cs.bus = s.i2cs.bus ∨ t.i2cs.bus = .held) (held : s.i2cs.bus = .held)
    (low : t.i2cs.scl = .low) : I2cFits t := by
  have : t.i2cs.bus = .held := by
    rcases bus with h | h
    · rw [h, held]
    · exact h
  simp [I2cFits, this, low]

/-- The I2C lines after each sent byte: SCL low, the bus as before. -/
theorem i2cTxOrdered_lines (lsb : Bool) (x : Byte) (s : State) :
    (i2cTxOrdered lsb x s).2.i2cs = { s.i2cs with sda := .rel, scl := .low } := by
  rcases clockRises_or_stuck s with ⟨w, h⟩ | h
  · rw [i2cTxOrdered_sampled lsb x w s h]
    rfl
  · rw [i2cTxOrdered_stuck lsb x s h]
    rfl

theorem i2cAckPoll_lines (s : State) : (i2cAckPoll s).2.i2cs = { s.i2cs with sda := .rel, scl := .low } := by
  rcases clockRises_or_stuck s with ⟨w, h⟩ | h
  · rw [i2cAckPoll_sampled w s h]
    rfl
  · rw [i2cAckPoll_stuck s h]
    rfl

/-- The bus stays held through an address phase, with SCL low when it was (R192). -/
theorem i2cAddrPhase_lines (rw combined : Bool) (s : State) (low : s.i2cs.scl = .low) :
    (i2cAddrPhase rw combined s).2.i2cs.bus = s.i2cs.bus ∧ (i2cAddrPhase rw combined s).2.i2cs.scl = .low := by
  have sent : ∀ x t, (i2cTxAddr x t).2.i2cs.bus = t.i2cs.bus ∧ (i2cTxAddr x t).2.i2cs.scl = .low := by
    intro x t
    simp [i2cTxAddr, i2cTxOrdered_lines]
  have guarded : ∀ (a : Bool × State) (f : State → Bool × State), a.2.i2cs.bus = s.i2cs.bus → a.2.i2cs.scl = .low →
      (∀ t : State, t.i2cs.bus = s.i2cs.bus → t.i2cs.scl = .low → (f t).2.i2cs.bus = s.i2cs.bus ∧ (f t).2.i2cs.scl = .low) →
      (ifAcked a f).2.i2cs.bus = s.i2cs.bus ∧ (ifAcked a f).2.i2cs.scl = .low := by
    intro a f bus scl step
    unfold ifAcked
    split
    · exact ⟨bus, scl⟩
    · exact step _ bus scl
  unfold i2cAddrPhase
  split
  · exact ⟨rfl, low⟩
  · exact sent _ _
  · split
    · exact sent _ _
    · have first := guarded (i2cTxAddr (addr10Header s.cfg.i2c.addr false) s)
        (fun t => i2cTxAddr (s.cfg.i2c.addr.extractLsb' 0 8) t) (sent _ _).1 (sent _ _).2
        (fun t bus _ => ⟨(sent _ _).1.trans bus, (sent _ _).2⟩)
      refine guarded _ _ first.1 first.2 fun t bus scl => ?_
      split
      · exact ⟨(sent _ _).1.trans bus, (sent _ _).2⟩
      · exact ⟨bus, scl⟩

theorem held_of_not_idle (s : State) (h : (!i2cIdle s) = true) : s.i2cs.bus = .held := by
  cases bus : s.i2cs.bus
  · simp [i2cIdle, bus] at h
  · rfl

theorem opened_of_not_idle (s : State) (h : (!twIdle s) = true) : s.tws.frame = .opened := by
  cases frame : s.tws.frame
  · simp [twIdle, frame] at h
  · rfl

theorem twFits_closed {s : State} {n : Nat} {t : TwState} (h : s.tws = twClosed n t) : TwFits s := by
  simp [TwFits, h, twClosed]

theorem twEnd_fits (s : State) : TwFits (twEnd s) := by
  simp [TwFits, twEnd_eq]

theorem twRead_fits (cs : List Byte) (n : Nat) (s : State) (h : TwFits s) : TwFits (twRead cs n s).2 := by
  unfold twRead twReadFrame
  split
  · exact h
  · exact twEnd_fits _

theorem twWrite_fits (bs : List Byte) (s : State) : TwFits (twWrite bs s) := twEnd_fits _

theorem twRead_few (cs : List Byte) (n : Nat) (s : State) (h : n ≤ 4095) : (twRead cs n s).1.length ≤ 4095 := by
  rw [twRead_length]
  exact h

/-- After a switch to a direction in an open frame: the direction, the frame, and DIO. -/
theorem twSwitch_state (x : TwDir) (s : State) (h : s.tws.dir = .input → s.tws.dio = .input) :
    (twSwitch x s).tws.dir = x ∧ (twSwitch x s).tws.frame = s.tws.frame ∧ (x = .input → (twSwitch x s).tws.dio = .input) := by
  unfold twSwitch
  split
  · rename_i e
    exact ⟨e, rfl, fun i => h (e.trans i)⟩
  · cases x
    · exact ⟨rfl, rfl, nofun⟩
    · exact ⟨rfl, rfl, fun _ => rfl⟩

/-- A turned primitive: refused in mid-byte, or its body after the switch (R148). -/
theorem twTurned_cases {x : TwDir} {body : State → Result} {s t : State} (h : twTurned x body s = .next t) :
    raise .seq s = .next t ∨ body (twSwitch x s) = .next t := by
  unfold twTurned twDir at h
  split at h
  · rename_i s' e
    split at e
    · injection e with e
      exact .inr (by rw [e]; exact h)
    · cases e
  · exact .inl h

theorem frameBytes_length (f : Frame) : (frameBytes f).length = 14 := rfl

theorem busRead_few (cs : List Byte) (n : Nat) (s : State) (h : n ≤ 4095) : (busRead cs n s).2.1.length ≤ 4095 := by
  unfold busRead
  split
  · exact (twReadFrame_length cs n s).le.trans h
  · rw [i2cReadTransfer_length]
    split
    · exact h
    · exact Nat.zero_le _
  · simp

theorem rawRead_few (n : Nat) (s : State) (h : n ≤ 4095) : (rawRead n s).2.1.length ≤ 4095 := by
  unfold rawRead
  split
  · simp
  · exact busRead_few _ n s h

/-- What an OLED command does by backend (44_backends.md R362). -/
theorem onOled_cases {p : Prop} {effect : Rev → State → Result} {s t : State} (e : onOled effect (begin s) = .next t)
    (oled : ∀ r, effect r (begin s) = .next t → TurnedAway s t ∨ p) (dummy : finish .ok (begin s) = .next t → TurnedAway s t ∨ p) :
    TurnedAway s t ∨ p := by
  unfold onOled at e
  split at e
  · exact oled .a e
  · exact oled .b e
  · exact dummy e
  · exact .inl (away_of_raise e rfl (by decide))
  · exact .inl (away_of_raise e rfl (by decide))

/-- What every command can do (R405, R408). -/
theorem exec_cases {i : Instr} {s t : State} (h : exec i s = .next t) : TurnedAway s t ∨ Ran i s t := by
  cases i with
  | i2cReadCmdData m n txp =>
    simp only [exec, execI2cReadCmdData, i2cCapability] at h
    exact of_command h rfl rfl rfl fun e =>
      .inr ⟨trivial, ran_result e (turnedAway_ackCode _)
        (.i2c rfl (i2cRead_steps _ _ _) (i2cRead_fits _ _ _)) (i2cRead_few _ _ _ (len_le n))⟩
  | i2cReadData n txp =>
    simp only [exec, execI2cReadData, i2cCapability] at h
    exact of_command h rfl rfl rfl fun e =>
      .inr ⟨trivial, ran_result e (turnedAway_ackCode _)
        (.i2c rfl (i2cRead_steps _ _ _) (i2cRead_fits _ _ _)) (i2cRead_few _ _ _ (len_le n))⟩
  | i2cReadByte txp =>
    simp only [exec, execI2cReadByte, i2cCapability] at h
    exact of_command h rfl rfl rfl fun e =>
      .inr ⟨trivial, ran_result e (turnedAway_ackCode _)
        (.i2c rfl (i2cRead_steps _ _ _) (i2cRead_fits _ _ _)) (i2cRead_few _ _ _ (by omega))⟩
  | i2cWriteCmdData m n txp =>
    simp only [exec, execI2cWriteCmdData, i2cCapability] at h
    exact of_command h rfl rfl rfl fun e =>
      .inr ⟨trivial, ran_silent e (turnedAway_ackCode _)
        (.i2c rfl (i2cWrite_steps _ _) fun _ => i2cFits_closed _ (i2cWrite_closed _ _))⟩
  | i2cWriteData n txp =>
    simp only [exec, execI2cWriteData, i2cCapability] at h
    exact of_command h rfl rfl rfl fun e =>
      .inr ⟨trivial, ran_silent e (turnedAway_ackCode _)
        (.i2c rfl (i2cWrite_steps _ _) fun _ => i2cFits_closed _ (i2cWrite_closed _ _))⟩
  | i2cWriteByte b txp =>
    simp only [exec, execI2cWriteByte, i2cCapability] at h
    exact of_command h rfl rfl rfl fun e =>
      .inr ⟨trivial, ran_silent e (turnedAway_ackCode _)
        (.i2c rfl (i2cWrite_steps _ _) fun _ => i2cFits_closed _ (i2cWrite_closed _ _))⟩
  | i2cStart txp =>
    simp only [exec, execI2cStart] at h
    exact of_command h rfl rfl rfl fun e => by
      refine .inr ⟨trivial, ran_silent e rfl (.i2c rfl ?_ fun _ => ?_)⟩
      · split
        · exact i2cStart_steps _
        · exact i2cRstart_steps _
      · split
        · simp [I2cFits, i2cStart_eq]
        · rename_i busy
          refine i2cFits_low (s := s) (.inl (by rw [i2cRstart_eq]; rfl)) ?_ (by rw [i2cRstart_eq]; rfl)
          exact held_of_not_idle s (by simp only [Bool.not_eq_true']; exact Bool.eq_false_iff.mpr busy)
  | i2cStop txp =>
    simp only [exec, execI2cStop, i2cPrimitive] at h
    exact of_command h rfl rfl rfl fun e =>
      .inr ⟨trivial, ran_silent e rfl (.i2c rfl (i2cStop_steps _) fun _ => by simp [I2cFits, i2cStop_eq])⟩
  | i2cTxBit bit txp =>
    simp only [exec, execI2cTxBit, i2cPrimitive] at h
    by_cases ready : busReady (.i2cTxBit bit txp) s = true
    · have held : s.i2cs.bus = .held := held_of_not_idle s ready
      exact of_command h rfl rfl rfl fun e =>
        .inr ⟨trivial, ran_silent e rfl
          (.i2c rfl (i2cTxBit_steps _ _) fun _ => i2cFits_low (s := s) (.inl (by rw [i2cTxBit_eq]; rfl)) held (by rw [i2cTxBit_eq]; rfl))⟩
    · exact .inl (away_of_seq ready h)
  | i2cRxBit txp =>
    simp only [exec, execI2cRxBit, i2cPrimitive] at h
    by_cases ready : busReady (.i2cRxBit txp) s = true
    · have held : s.i2cs.bus = .held := held_of_not_idle s ready
      exact of_command h rfl rfl rfl fun e =>
        .inr ⟨trivial, ran_result (bytes := [_]) e rfl
          (.i2c rfl ⟨(relSda_effect _).trans (i2cRxBit_steps _).effect, (i2cRxBit_steps _).tws, (i2cRxBit_steps _).legal⟩ fun _ => i2cFits_low (s := s) (.inl (by rw [i2cRxBit_eq]; rfl)) held (by rw [i2cRxBit_eq]; rfl)) (by simp)⟩
    · exact .inl (away_of_seq ready h)
  | i2cAckPoll txp =>
    simp only [exec, execI2cAckPoll, i2cPrimitive] at h
    by_cases ready : busReady (.i2cAckPoll txp) s = true
    · have held : s.i2cs.bus = .held := held_of_not_idle s ready
      exact of_command h rfl rfl rfl fun e =>
        .inr ⟨trivial, ran_result (bytes := [_]) e (turnedAway_ackCode _)
          (.i2c rfl (i2cAckPoll_steps _) fun _ => i2cFits_low (s := s) (.inl (by rw [i2cAckPoll_lines]; rfl)) held (by rw [i2cAckPoll_lines])) (by simp)⟩
    · exact .inl (away_of_seq ready h)
  | i2cTxByte b txp =>
    simp only [exec, execI2cTxByte, i2cPrimitive] at h
    by_cases ready : busReady (.i2cTxByte b txp) s = true
    · have held : s.i2cs.bus = .held := held_of_not_idle s ready
      exact of_command h rfl rfl rfl fun e =>
        .inr ⟨trivial, ran_result (bytes := [_]) e (turnedAway_ackCode _)
          (.i2c rfl (i2cTxOrdered_steps _ _ _) fun _ => i2cFits_low (s := s) (.inl (by rw [i2cTxByte, i2cTxOrdered_lines]; rfl)) held (by rw [i2cTxByte, i2cTxOrdered_lines])) (by simp)⟩
    · exact .inl (away_of_seq ready h)
  | i2cRxByte ack txp =>
    simp only [exec, execI2cRxByte, i2cPrimitive] at h
    by_cases ready : busReady (.i2cRxByte ack txp) s = true
    · have held : s.i2cs.bus = .held := held_of_not_idle s ready
      exact of_command h rfl rfl rfl fun e =>
        .inr ⟨trivial, ran_result (bytes := [_]) e rfl
          (.i2c rfl (i2cRxByte_steps _ _) fun _ => i2cFits_low (s := s) (.inl (by rw [i2cRxByte_eq]; rfl)) held (by rw [i2cRxByte_eq]; rfl)) (by simp)⟩
    · exact .inl (away_of_seq ready h)
  | i2cAddr combined rw txp =>
    simp only [exec, execI2cAddr, i2cPrimitive] at h
    by_cases ready : busReady (.i2cAddr combined rw txp) s = true
    · have held : s.i2cs.bus = .held := held_of_not_idle s ready
      exact of_command h rfl rfl rfl fun e =>
        .inr ⟨trivial, ran_result (bytes := [_]) e (turnedAway_ackCode _) (.i2c rfl (i2cAddrPhase_steps _ _ _) fun fits => by
          have lines := i2cAddrPhase_lines rw combined (begin s) (fits.2 held)
          exact i2cFits_low (s := s) (.inl lines.1) held lines.2) (by simp)⟩
    · exact .inl (away_of_seq ready h)
  | twReadCmdData m n txp =>
    simp only [exec, execTwReadCmdData, twCapability] at h
    exact of_command h rfl rfl rfl fun e =>
      .inr ⟨trivial, ran_result e rfl (.tw rfl (twRead_steps _ _ _) (twRead_fits _ _ _)) (twRead_few _ _ _ (len_le n))⟩
  | twReadData n txp =>
    simp only [exec, execTwReadData, twCapability] at h
    exact of_command h rfl rfl rfl fun e =>
      .inr ⟨trivial, ran_result e rfl (.tw rfl (twRead_steps _ _ _) (twRead_fits _ _ _)) (twRead_few _ _ _ (len_le n))⟩
  | twReadByte txp =>
    simp only [exec, execTwReadByte, twCapability] at h
    exact of_command h rfl rfl rfl fun e =>
      .inr ⟨trivial, ran_result e rfl (.tw rfl (twRead_steps _ _ _) (twRead_fits _ _ _)) (twRead_few _ _ _ (by omega))⟩
  | twWriteCmdData m n txp =>
    simp only [exec, execTwWriteCmdData, twCapability] at h
    exact of_command h rfl rfl rfl fun e =>
      .inr ⟨trivial, ran_silent e rfl (.tw rfl (twWrite_steps _ _) fun _ => twWrite_fits _ _)⟩
  | twWriteData n txp =>
    simp only [exec, execTwWriteData, twCapability] at h
    exact of_command h rfl rfl rfl fun e =>
      .inr ⟨trivial, ran_silent e rfl (.tw rfl (twWrite_steps _ _) fun _ => twWrite_fits _ _)⟩
  | twWriteByte b txp =>
    simp only [exec, execTwWriteByte, twCapability] at h
    exact of_command h rfl rfl rfl fun e =>
      .inr ⟨trivial, ran_silent e rfl (.tw rfl (twWrite_steps _ _) fun _ => twWrite_fits _ _)⟩
  | twBegin txp =>
    simp only [exec, execTwBegin] at h
    exact of_command h rfl rfl rfl fun e =>
      .inr ⟨trivial, ran_silent e rfl (.tw rfl (twBegin_steps _) fun fits => ⟨fun h => (nomatch h), fits.2⟩)⟩
  | twEnd txp =>
    simp only [exec, execTwEnd, twPrimitive] at h
    exact of_command h rfl rfl rfl fun e => .inr ⟨trivial, ran_silent e rfl (.tw rfl (twEnd_steps _) fun _ => twEnd_fits _)⟩
  | twTxBit bit txp =>
    simp only [exec, execTwTxBit, twBitPrimitive] at h
    by_cases ready : busReady (.twTxBit bit txp) s = true
    · have opened : s.tws.frame = .opened := opened_of_not_idle s (by simpa using (by simpa [busReady] using ready : _ ∧ _).1)
      exact of_command h rfl rfl rfl fun e => by
        rcases twTurned_cases e with e | e
        · exact .inl (away_of_raise e rfl (by decide))
        · refine .inr ⟨trivial, ran_silent e rfl (.tw rfl ((twSwitch_steps _ _).trans (twTxBit_steps _ _)) fun fits => ?_)⟩
          have after := twSwitch_state .output (begin s) fits.2
          have frame : (twSwitch .output (begin s)).tws.frame = .opened := after.2.1.trans opened
          simp [TwFits, twTxBit_eq, frame, after]
    · exact .inl (away_of_seq ready h)
  | twRxBit txp =>
    simp only [exec, execTwRxBit, twBitPrimitive] at h
    by_cases ready : busReady (.twRxBit txp) s = true
    · have opened : s.tws.frame = .opened := opened_of_not_idle s (by simpa using (by simpa [busReady] using ready : _ ∧ _).1)
      exact of_command h rfl rfl rfl fun e => by
        rcases twTurned_cases e with e | e
        · exact .inl (away_of_raise e rfl (by decide))
        · refine .inr ⟨trivial, ran_result (bytes := [_]) e rfl (.tw rfl ((twSwitch_steps _ _).trans (twRxBit_steps _)) fun fits => ?_) (by simp)⟩
          have after := twSwitch_state .input (begin s) fits.2
          have frame : (twSwitch .input (begin s)).tws.frame = .opened := after.2.1.trans opened
          simp [TwFits, twRxBit_eq, frame, after]
    · exact .inl (away_of_seq ready h)
  | twTxByte b txp =>
    simp only [exec, execTwTxByte, twBytePrimitive] at h
    by_cases ready : busReady (.twTxByte b txp) s = true
    · have opened : s.tws.frame = .opened := opened_of_not_idle s (by simpa using (by simpa [busReady] using ready : _ ∧ _).1)
      exact of_command h rfl rfl rfl fun e => by
        rcases twTurned_cases e with e | e
        · exact .inl (away_of_raise e rfl (by decide))
        · refine .inr ⟨trivial, ran_silent e rfl (.tw rfl ((twSwitch_steps _ _).trans (twTxByte_steps _ _)) fun fits => ?_)⟩
          have after := twSwitch_state .output (begin s) fits.2
          have frame : (twSwitch .output (begin s)).tws.frame = .opened := after.2.1.trans opened
          simp [TwFits, twTxByte_eq, frame, after]
    · exact .inl (away_of_seq ready h)
  | twRxByte txp =>
    simp only [exec, execTwRxByte, twBytePrimitive] at h
    by_cases ready : busReady (.twRxByte txp) s = true
    · have opened : s.tws.frame = .opened := opened_of_not_idle s (by simpa using (by simpa [busReady] using ready : _ ∧ _).1)
      exact of_command h rfl rfl rfl fun e => by
        rcases twTurned_cases e with e | e
        · exact .inl (away_of_raise e rfl (by decide))
        · refine .inr ⟨trivial, ran_result (bytes := [_]) e rfl (.tw rfl ((twSwitch_steps _ _).trans (twRxByte_steps _)) fun fits => ?_) (by simp)⟩
          have after := twSwitch_state .input (begin s) fits.2
          have frame : (twSwitch .input (begin s)).tws.frame = .opened := after.2.1.trans opened
          simp [TwFits, twRxByte_eq, frame, after]
    · exact .inl (away_of_seq ready h)
  | ctlInit txp =>
    simp only [exec, execCtlInit, controller] at h
    exact of_command h rfl rfl rfl fun e =>
      .inr ⟨trivial, ran_silent e (turnedAway_ackCode _) (.initialise rfl rfl (initBody_steps _))⟩
  | ctlGetBrightness txp =>
    simp only [exec, execCtlGetBrightness, controller] at h
    exact of_command h rfl rfl rfl fun e => .inr ⟨trivial, ran_result (bytes := [_]) e rfl (.bus rfl rfl (.refl _)) (by simp)⟩
  | ctlSetBrightness level txp =>
    simp only [exec, execCtlSetBrightness, controller] at h
    exact of_command h rfl rfl rfl fun e => by
      split at e
      · exact .inl (away_of_raise e rfl (by decide))
      · exact .inr ⟨Nat.lt_of_not_le ‹_›, ran_silent e (turnedAway_ackCode _) (.bus rfl rfl (sendBrightness_steps _))⟩
  | ctlGetPower txp =>
    simp only [exec, execCtlGetPower, controller] at h
    exact of_command h rfl rfl rfl fun e => .inr ⟨trivial, ran_result (bytes := [_]) e rfl (.bus rfl rfl (.refl _)) (by simp)⟩
  | ctlSetPower on txp =>
    simp only [exec, execCtlSetPower, controller] at h
    exact of_command h rfl rfl rfl fun e =>
      .inr ⟨trivial, ran_silent e (turnedAway_ackCode _) (.bus rfl rfl (sendBrightness_steps _))⟩
  | ctlGetDescriptor txp =>
    simp only [exec, execCtlGetDescriptor, controller] at h
    exact of_command h rfl rfl rfl fun e => .inr ⟨trivial, ran_result e rfl (.bus rfl rfl (.refl _)) (by simp [descBytes])⟩
  | ctlSetDescriptor txp =>
    simp only [exec, execCtlSetDescriptor, controller] at h
    exact of_command h rfl rfl rfl fun e => by
      split at e
      · exact .inl (away_of_raise e rfl (by decide))
      · exact .inr ⟨Nat.lt_of_not_le ‹_›, ran_silent e (turnedAway_ackCode _) (.initialise rfl rfl (initBody_steps _))⟩
  | ctlSetIcon id on txp =>
    simp only [exec, execCtlSetIcon, controller] at h
    exact of_command h rfl rfl rfl fun e => .inr ⟨trivial, ran_silent e rfl (.bus rfl rfl (.refl _))⟩
  | ctlReadRaw n txp =>
    simp only [exec, execCtlReadRaw, controller] at h
    exact of_command h rfl rfl rfl fun e =>
      .inr ⟨trivial, ran_result e (turnedAway_ackCode _) (.bus rfl rfl (rawRead_steps _ _)) (rawRead_few _ _ (len_le n))⟩
  | ctlWriteRaw n txp =>
    simp only [exec, execCtlWriteRaw, controller] at h
    exact of_command h rfl rfl rfl fun e => by
      split at e
      · exact .inl (away_of_raise e rfl (by decide))
      · split at e
        · rename_i led
          have led : s.ctlr.active = .led := led
          refine .inr ⟨trivial, ran_result (bytes := [_]) e (turnedAway_ackCode _) ?_ (by simp)⟩
          exact (by simp [prepared, led] : prepared (.ctlWriteRaw n txp) (begin s) = layOut (rawFrame n.toNat txp) (begin s)) ▸ .bus rfl rfl (ledEmit_steps _)
        · rename_i lcd
          have other : s.ctlr.active ≠ .led := by rw [show s.ctlr.active = .lcd from lcd]; decide
          refine .inr ⟨trivial, ran_result (bytes := [_]) e (turnedAway_ackCode _) ?_ (by simp)⟩
          rw [show prepared (.ctlWriteRaw n txp) (begin s) = begin s by simp [prepared, other]]
          exact .bus rfl rfl (run_steps _ _)
        · exact .inl (away_of_raise e rfl (by decide))
        · exact .inl (away_of_raise e rfl (by decide))
        · rename_i dummy
          have other : s.ctlr.active ≠ .led := by rw [show s.ctlr.active = .dummy from dummy]; decide
          refine .inr ⟨trivial, ran_result (bytes := [_]) e (turnedAway_ackCode _) ?_ (by simp)⟩
          rw [show prepared (.ctlWriteRaw n txp) (begin s) = begin s by simp [prepared, other]]
          exact .bus rfl rfl (.refl _)
  | ctlWriteDisplayFrame size txp =>
    simp only [exec, execCtlWriteDisplayFrame, controller] at h
    exact of_command h rfl rfl rfl fun e => by
      split at e
      · exact .inl (away_of_raise e rfl (by decide))
      · split at e
        · rename_i led
          have led : s.ctlr.active = .led := led
          refine .inr ⟨trivial, ran_silent e (turnedAway_ackCode _) ?_⟩
          exact (by simp [prepared, led] : prepared (.ctlWriteDisplayFrame size txp) (begin s) =
            layOut (displayFrame (begin s) (ddDecode (begin s).par txp)) (begin s)) ▸ .bus rfl rfl (ledEmit_steps _)
        · cases e
        · cases e
        · cases e
        · rename_i dummy
          have other : s.ctlr.active ≠ .led := by rw [show s.ctlr.active = .dummy from dummy]; decide
          refine .inr ⟨trivial, ran_silent e rfl ?_⟩
          rw [show prepared (.ctlWriteDisplayFrame size txp) (begin s) = begin s by simp [prepared, other]]
          exact .bus rfl rfl (.refl _)
  | ctlSetOrder txp =>
    simp only [exec, execCtlSetOrder, controller] at h
    exact of_command h rfl rfl rfl fun e => by
      split at e
      · exact .inr ⟨trivial, ran_silent e rfl (.bus rfl rfl (.refl _))⟩
      · exact .inl (away_of_raise e rfl (by decide))
  | ctlSetIndicatorMask txp =>
    simp only [exec, execCtlSetIndicatorMask, controller] at h
    exact of_command h rfl rfl rfl fun e => .inr ⟨trivial, ran_silent e rfl (.bus rfl rfl (.refl _))⟩
  | ctlGetMode txp =>
    simp only [exec, execCtlGetMode, controller] at h
    exact of_command h rfl rfl rfl fun e => .inr ⟨trivial, ran_result (bytes := [_]) e rfl (.bus rfl rfl (.refl _)) (by simp)⟩
  | ctlSetMode mode txp =>
    simp only [exec, execCtlSetMode, controller] at h
    exact of_command h rfl rfl rfl fun e => .inr ⟨trivial, ran_silent e rfl (.bus rfl rfl (.refl _))⟩
  | ctlReloadDefaults txp =>
    simp only [exec, execCtlReloadDefaults, controller] at h
    exact of_command h rfl rfl rfl fun e =>
      .inr ⟨trivial, ran_silent e (turnedAway_ackCode _) (.initialise rfl rfl (initBody_steps _))⟩
  | dpTranspose8 txp =>
    simp only [exec, execDpTranspose8, datapath] at h
    exact of_command h rfl rfl rfl fun e => .inr ⟨trivial, ran_result e rfl rfl (by simp [Eight.toList])⟩
  | dpScatter txp =>
    simp only [exec, execDpScatter, datapath] at h
    exact of_command h rfl rfl rfl fun e => .inr ⟨trivial, ran_result e rfl rfl (by rw [frameBytes_length]; omega)⟩
  | dpXfDirect txp =>
    simp only [exec, execDpXfDirect, datapath] at h
    exact of_command h rfl rfl rfl fun e => .inr ⟨trivial, ran_result e rfl rfl (by rw [frameBytes_length]; omega)⟩
  | dpXfTransposed txp =>
    simp only [exec, execDpXfTransposed, datapath] at h
    exact of_command h rfl rfl rfl fun e => .inr ⟨trivial, ran_result e rfl rfl (by rw [frameBytes_length]; omega)⟩
  | dpXfNarrow5 txp =>
    simp only [exec, execDpXfNarrow5, datapath] at h
    exact of_command h rfl rfl rfl fun e => .inr ⟨trivial, ran_result e rfl rfl (by rw [frameBytes_length]; omega)⟩
  | dpXfMuxext txp =>
    simp only [exec, execDpXfMuxext, datapath] at h
    exact of_command h rfl rfl rfl fun e => .inr ⟨trivial, ran_result e rfl rfl (by rw [frameBytes_length]; omega)⟩
  | dpCharToMask code txp =>
    simp only [exec, execDpCharToMask, datapath] at h
    exact of_command h rfl rfl rfl fun e => .inr ⟨trivial, ran_result (bytes := [_]) e rfl rfl (by simp)⟩
  | dpLedClock seconds colon hours minutes txp =>
    simp only [exec, execDpLedClock, datapath] at h
    exact of_command h rfl rfl rfl fun e => by
      split at e
      · exact .inl (away_of_raise e rfl (by decide))
      · exact .inr ⟨trivial, ran_result e rfl rfl (by rw [frameBytes_length]; omega)⟩
  | oledCmd n txp =>
    simp only [exec, execOledCmd, controller] at h
    exact of_command h rfl rfl rfl fun e => onOled_cases e (fun _ e => .inr ⟨trivial, ran_silent e (turnedAway_ackCode _) (.oled rfl (run_steps _ _))⟩) (fun e =>
      .inr ⟨trivial, ran_silent e rfl (.oled rfl (.refl _))⟩)
  | oledData n txp =>
    simp only [exec, execOledData, controller] at h
    exact of_command h rfl rfl rfl fun e => onOled_cases e (fun _ e => .inr ⟨trivial, ran_silent e (turnedAway_ackCode _) (.oled rfl (run_steps _ _))⟩) (fun e =>
      .inr ⟨trivial, ran_silent e rfl (.oled rfl (.refl _))⟩)
  | oledWindow n txp =>
    simp only [exec, execOledWindow, controller] at h
    exact of_command h rfl rfl rfl fun e => onOled_cases e (fun _ e => by
        split at e
        · split at e
          · exact .inr ⟨trivial, ran_silent e (turnedAway_ackCode _) (.oled rfl (run_steps _ _))⟩
          · exact .inl (away_of_raise e rfl (by decide))
        · exact .inl (away_of_raise e rfl (by decide))) (fun e => .inr ⟨trivial, ran_silent e rfl (.oled rfl (.refl _))⟩)
  | oledClear txp =>
    simp only [exec, execOledClear, controller] at h
    exact of_command h rfl rfl rfl fun e => onOled_cases e (fun _ e => .inr ⟨trivial, ran_silent e (turnedAway_ackCode _) (.oled rfl (run_steps _ _))⟩) (fun e =>
      .inr ⟨trivial, ran_silent e rfl (.oled rfl (.refl _))⟩)
  | miscGetVersion txp =>
    simp only [exec, execMiscGetVersion, controller] at h
    exact of_command h rfl rfl rfl fun e => by
      injection e with e
      exact .inr ⟨trivial, begin s, s.par.version, .ok, rfl, rfl, e.symm, id⟩

/-- What no command's engine steps touch. -/
theorem Moves.keeps {i : Instr} {s t : State} (h : Moves i s t) :
    t.seq = s.seq ∧ t.par = s.par ∧ t.env.inbox = s.env.inbox ∧ t.refused = s.refused ∧ t.rxq = s.rxq ∧ t.wbuf = s.wbuf ∧
      t.cfg.td3 = s.cfg.td3 := by
  unfold Moves at h
  split at h
  · have e := h.1.effect
    exact ⟨e.seq, e.par, e.inbox, e.refused, e.rxq, e.wbuf, by rw [e.cfg]⟩
  · have e := h.1.effect
    exact ⟨e.seq, e.par, e.inbox, e.refused, e.rxq, e.wbuf, by rw [e.cfg]⟩
  · split at h
    · exact ⟨h.seq, h.par, h.inbox, h.refused, h.rxq, h.wbuf, h.td3⟩
    · have e := h.effect
      exact ⟨e.seq, e.par, e.inbox, e.refused, e.rxq, e.wbuf, by rw [e.cfg]⟩
  · have e := h.effect
    exact ⟨e.seq, e.par, e.inbox, e.refused, e.rxq, e.wbuf, by rw [e.cfg]⟩
  · subst h
    exact ⟨rfl, rfl, rfl, rfl, rfl, rfl, rfl⟩

/-- The events of a command's engine steps, and the levels they leave. -/
theorem Moves.emits {i : Instr} {s t : State} (h : Moves i s t) :
    ∃ es : List Event, t.env.traceRev = es.reverse ++ s.env.traceRev ∧ (∀ e ∈ es, mayEmit i e = true) ∧
      ∀ p, wireLevel t p = es.foldl (levelAfter p) (wireLevel s p) := by
  unfold Moves at h
  split at h <;> rename_i u
  · simpa [mayEmit, u] using h.1.effect.emits
  · simpa [mayEmit, u] using h.1.effect.emits
  · split at h
    · simpa [mayEmit, u, busEvent] using InitSteps.emits h
    · simpa [mayEmit, u, busEvent] using h.effect.emits
  · simpa [mayEmit, u, busEvent] using h.effect.emits
  · subst h
    exact ⟨[], by simp⟩

/-- What no command writes before its bus steps. -/
theorem prepared_keeps (i : Instr) (s : State) :
    (prepared i s).env = s.env ∧ (prepared i s).i2cs = s.i2cs ∧ (prepared i s).tws = s.tws ∧ (prepared i s).dp = s.dp ∧
      (prepared i s).par = s.par ∧ (prepared i s).seq = s.seq ∧ (prepared i s).rxq = s.rxq ∧
      (prepared i s).refused = s.refused ∧ (prepared i s).status = s.status := by
  refine ⟨?_, ?_, ?_, ?_, ?_, ?_, ?_, ?_, ?_⟩ <;> cases i <;> first | rfl | (simp only [prepared]; split <;> rfl)

end Sys2Proof.Machine
end

