-- ==== Sys2Proof/Laws/PerInstr.lean ====
section
/-! SUPPORT. One lemma per instruction: its fields decode to it again (30_encoding.md R112 to R121). -/

namespace Sys2Proof

theorem byteField_high (b : Byte) : (b.setWidth 12).extractLsb' 8 4 = 0 := by
  ext i hi
  simp

theorem byteField_low (b : Byte) : (b.setWidth 12).extractLsb' 0 8 = b := by
  ext i hi
  simp [hi]
  intro
  omega

theorem byteOperand_encoded (op : Byte) (b : Byte) (i : Byte → Instr) :
    byteOperand ⟨op, 0, b.setWidth 12⟩ i = .ok (i b) := by
  simp [byteOperand, whenZero, byteField_high, byteField_low]

theorem bitOperand_encoded (op : Byte) (b : Bool) (i : Bool → Instr) : bitOperand ⟨op, 0, bitField b⟩ i = .ok (i b) := by
  have field : (bitField b).extractLsb' 1 11 = 0 ∧ (bitField b).getLsbD 0 = b := by
    cases b <;> decide
  rw [bitOperand, field.1, field.2]
  rfl

theorem addrOperand_encoded (combined rw : Bool) (i : Bool → Bool → Instr) (lb : Len)
    (h : lb = bitField combined <<< 1 ||| bitField rw) :
    whenZero (decide ((0 : Len) = 0 ∧ lb.extractLsb' 2 10 = 0)) (i (lb.getLsbD 1) (lb.getLsbD 0)) = .ok (i combined rw) := by
  subst h
  cases combined <;> cases rw <;> rfl

theorem iconOperand_encoded (id : BitVec 4) (on : Bool) (i : BitVec 4 → Bool → Instr) :
    whenZero (decide ((id.setWidth 12).extractLsb' 4 8 = 0 ∧ (bitField on).extractLsb' 1 11 = 0))
      (i ((id.setWidth 12).extractLsb' 0 4) ((bitField on).getLsbD 0)) = .ok (i id on) := by
  have field : (id.setWidth 12).extractLsb' 4 8 = 0 ∧ (id.setWidth 12).extractLsb' 0 4 = id := by
    revert id; decide
  rw [field.1, field.2]
  cases on <;> rfl

theorem clockOperand_encoded (seconds : BitVec 6) (colon : Bool) (hours : BitVec 5) (minutes : BitVec 6)
    (i : BitVec 6 → Bool → BitVec 5 → BitVec 6 → Instr) (la : Len)
    (h : la = seconds.setWidth 12 <<< 6 ||| bitField colon <<< 5 ||| hours.setWidth 12) :
    whenZero (decide ((minutes.setWidth 12).extractLsb' 6 6 = 0))
      (i (la.extractLsb' 6 6) (la.getLsbD 5) (la.extractLsb' 0 5) ((minutes.setWidth 12).extractLsb' 0 6)) =
      .ok (i seconds colon hours minutes) := by
  have minute : (minutes.setWidth 12).extractLsb' 6 6 = 0 ∧ (minutes.setWidth 12).extractLsb' 0 6 = minutes := by
    revert minutes; decide
  have second : la.extractLsb' 6 6 = seconds := by
    subst h
    ext k hk
    cases colon <;> interval_cases k <;> simp [bitField]
  have bit : la.getLsbD 5 = colon := by
    subst h
    cases colon <;> simp [bitField]
  have hour : la.extractLsb' 0 5 = hours := by
    subst h
    ext k hk
    cases colon <;> interval_cases k <;> simp [bitField]
  rw [minute.1, minute.2, second, bit, hour]
  rfl

namespace Laws.EncodeThenDecode

/-- The fields of the instruction decode to it, whatever its operands and its payload. -/
def Statement (i : Instr) : Prop := decodeFields (fieldsOfInstr i) i.txp = .ok i

theorem i2cReadCmdData (m : Len) (n : Len) (txp : List Byte) : Statement (.i2cReadCmdData m n txp) := rfl

theorem i2cReadData (n : Len) (txp : List Byte) : Statement (.i2cReadData n txp) := rfl

theorem i2cReadByte (txp : List Byte) : Statement (.i2cReadByte txp) := rfl

theorem i2cWriteCmdData (m : Len) (n : Len) (txp : List Byte) : Statement (.i2cWriteCmdData m n txp) := rfl

theorem i2cWriteData (n : Len) (txp : List Byte) : Statement (.i2cWriteData n txp) := rfl

theorem i2cWriteByte (b : Byte) (txp : List Byte) : Statement (.i2cWriteByte b txp) :=
  byteOperand_encoded _ b (fun x => .i2cWriteByte x txp)

theorem i2cStart (txp : List Byte) : Statement (.i2cStart txp) := rfl

theorem i2cStop (txp : List Byte) : Statement (.i2cStop txp) := rfl

theorem i2cTxBit (bit : Bool) (txp : List Byte) : Statement (.i2cTxBit bit txp) :=
  bitOperand_encoded _ bit (fun x => .i2cTxBit x txp)

theorem i2cRxBit (txp : List Byte) : Statement (.i2cRxBit txp) := rfl

theorem i2cAckPoll (txp : List Byte) : Statement (.i2cAckPoll txp) := rfl

theorem i2cTxByte (b : Byte) (txp : List Byte) : Statement (.i2cTxByte b txp) :=
  byteOperand_encoded _ b (fun x => .i2cTxByte x txp)

theorem i2cRxByte (ack : Bool) (txp : List Byte) : Statement (.i2cRxByte ack txp) :=
  bitOperand_encoded _ ack (fun x => .i2cRxByte x txp)

theorem i2cAddr (combined : Bool) (rw : Bool) (txp : List Byte) : Statement (.i2cAddr combined rw txp) :=
  addrOperand_encoded combined rw (fun x y => .i2cAddr x y txp) _ rfl

theorem twReadCmdData (m : Len) (n : Len) (txp : List Byte) : Statement (.twReadCmdData m n txp) := rfl

theorem twReadData (n : Len) (txp : List Byte) : Statement (.twReadData n txp) := rfl

theorem twReadByte (txp : List Byte) : Statement (.twReadByte txp) := rfl

theorem twWriteCmdData (m : Len) (n : Len) (txp : List Byte) : Statement (.twWriteCmdData m n txp) := rfl

theorem twWriteData (n : Len) (txp : List Byte) : Statement (.twWriteData n txp) := rfl

theorem twWriteByte (b : Byte) (txp : List Byte) : Statement (.twWriteByte b txp) :=
  byteOperand_encoded _ b (fun x => .twWriteByte x txp)

theorem twBegin (txp : List Byte) : Statement (.twBegin txp) := rfl

theorem twEnd (txp : List Byte) : Statement (.twEnd txp) := rfl

theorem twTxBit (bit : Bool) (txp : List Byte) : Statement (.twTxBit bit txp) :=
  bitOperand_encoded _ bit (fun x => .twTxBit x txp)

theorem twRxBit (txp : List Byte) : Statement (.twRxBit txp) := rfl

theorem twTxByte (b : Byte) (txp : List Byte) : Statement (.twTxByte b txp) :=
  byteOperand_encoded _ b (fun x => .twTxByte x txp)

theorem twRxByte (txp : List Byte) : Statement (.twRxByte txp) := rfl

theorem ctlInit (txp : List Byte) : Statement (.ctlInit txp) := rfl

theorem ctlGetBrightness (txp : List Byte) : Statement (.ctlGetBrightness txp) := rfl

theorem ctlSetBrightness (level : Byte) (txp : List Byte) : Statement (.ctlSetBrightness level txp) :=
  byteOperand_encoded _ level (fun x => .ctlSetBrightness x txp)

theorem ctlGetPower (txp : List Byte) : Statement (.ctlGetPower txp) := rfl

theorem ctlSetPower (on : Bool) (txp : List Byte) : Statement (.ctlSetPower on txp) :=
  bitOperand_encoded _ on (fun x => .ctlSetPower x txp)

theorem ctlGetDescriptor (txp : List Byte) : Statement (.ctlGetDescriptor txp) := rfl

theorem ctlSetDescriptor (txp : List Byte) : Statement (.ctlSetDescriptor txp) := rfl

theorem ctlSetIcon (id : BitVec 4) (on : Bool) (txp : List Byte) : Statement (.ctlSetIcon id on txp) :=
  iconOperand_encoded id on (fun x y => .ctlSetIcon x y txp)

theorem ctlReadRaw (n : Len) (txp : List Byte) : Statement (.ctlReadRaw n txp) := rfl

theorem ctlWriteRaw (n : Len) (txp : List Byte) : Statement (.ctlWriteRaw n txp) := rfl

theorem ctlWriteDisplayFrame (size : Len) (txp : List Byte) : Statement (.ctlWriteDisplayFrame size txp) := rfl

theorem ctlSetOrder (txp : List Byte) : Statement (.ctlSetOrder txp) := rfl

theorem ctlSetIndicatorMask (txp : List Byte) : Statement (.ctlSetIndicatorMask txp) := rfl

theorem ctlGetMode (txp : List Byte) : Statement (.ctlGetMode txp) := rfl

theorem ctlSetMode (mode : Byte) (txp : List Byte) : Statement (.ctlSetMode mode txp) :=
  byteOperand_encoded _ mode (fun x => .ctlSetMode x txp)

theorem ctlReloadDefaults (txp : List Byte) : Statement (.ctlReloadDefaults txp) := rfl

theorem dpTranspose8 (txp : List Byte) : Statement (.dpTranspose8 txp) := rfl

theorem dpScatter (txp : List Byte) : Statement (.dpScatter txp) := rfl

theorem dpXfDirect (txp : List Byte) : Statement (.dpXfDirect txp) := rfl

theorem dpXfTransposed (txp : List Byte) : Statement (.dpXfTransposed txp) := rfl

theorem dpXfNarrow5 (txp : List Byte) : Statement (.dpXfNarrow5 txp) := rfl

theorem dpXfMuxext (txp : List Byte) : Statement (.dpXfMuxext txp) := rfl

theorem dpCharToMask (code : Byte) (txp : List Byte) : Statement (.dpCharToMask code txp) :=
  byteOperand_encoded _ code (fun x => .dpCharToMask x txp)

theorem dpLedClock (seconds : BitVec 6) (colon : Bool) (hours : BitVec 5) (minutes : BitVec 6) (txp : List Byte) :
    Statement (.dpLedClock seconds colon hours minutes txp) :=
  clockOperand_encoded seconds colon hours minutes (fun w x y z => .dpLedClock w x y z txp) _ rfl

theorem oledCmd (n : Len) (txp : List Byte) : Statement (.oledCmd n txp) := rfl

theorem oledData (n : Len) (txp : List Byte) : Statement (.oledData n txp) := rfl

theorem oledWindow (n : Len) (txp : List Byte) : Statement (.oledWindow n txp) := rfl

theorem oledClear (txp : List Byte) : Statement (.oledClear txp) := rfl

theorem miscGetVersion (txp : List Byte) : Statement (.miscGetVersion txp) := rfl

end Laws.EncodeThenDecode

end Sys2Proof
end

