-- ==== Sys2Proof/Tests/Slice0.lean ====
section
/-! SUPPORT. The model's own tests: ill-formed terms refused, every row decoded from a word written out from 30_encoding.md, the
test vectors of 95_test_vectors.md that the spec works out (each test names its vector), and, for every statement with hypotheses,
a state and operands that meet them. -/

namespace Sys2Proof.Tests

open Sys2Proof.Machine

set_option Elab.async false

/-! Well-formedness: a payload of another length than the word fixes is refused (30_encoding.md R123). -/

theorem test_ill_formed_read_cmd : ¬ Instr.WellFormed (.i2cReadCmdData 2 1 [0x00]) := by decide

theorem test_ill_formed_write_cmd : ¬ Instr.WellFormed (.i2cWriteCmdData 1 2 [0x00, 0xAE]) := by decide

theorem test_ill_formed_write_data : ¬ Instr.WellFormed (.twWriteData 0 [0x00]) := by decide

theorem test_ill_formed_write_byte : ¬ Instr.WellFormed (.twWriteByte 0x40 [0x40]) := by decide

theorem test_ill_formed_tw_read : ¬ Instr.WellFormed (.twReadCmdData 1 3 []) := by decide

theorem test_ill_formed_descriptor : ¬ Instr.WellFormed (.ctlSetDescriptor [9, 0, 0]) := by decide

theorem test_ill_formed_raw : ¬ Instr.WellFormed (.ctlWriteRaw 2 [1, 2, 3]) := by decide

theorem test_ill_formed_frame : ¬ Instr.WellFormed (.ctlWriteDisplayFrame 5 [1, 2, 3, 4]) := by decide

theorem test_ill_formed_order : ¬ Instr.WellFormed (.ctlSetOrder [0, 1, 2, 3, 4, 5]) := by decide

theorem test_ill_formed_mask : ¬ Instr.WellFormed (.ctlSetIndicatorMask [1]) := by decide

theorem test_ill_formed_block : ¬ Instr.WellFormed (.dpTranspose8 [1, 2, 3, 4, 5, 6, 7]) := by decide

theorem test_ill_formed_words :
    ¬ Instr.WellFormed (.dpScatter [0, 0, 0, 0, 0, 0, 0, 0, 0, 0, 0, 0, 0]) := by decide

theorem test_ill_formed_window : ¬ Instr.WellFormed (.oledWindow 1 [0, 1, 0, 0]) := by decide

theorem test_ill_formed_init : ¬ Instr.WellFormed (.ctlInit [0]) := by decide

theorem test_well_formed : Instr.WellFormed (.oledWindow 2 [0, 1, 0, 0, 0xAA, 0x55]) := by decide

/-! Decoding: one word for each row, from the encodings of R112 to R120. -/

theorem test_decode_i2cReadCmdData : decode ⟨0x10123456, []⟩ = .ok (.i2cReadCmdData 0x123 0x456 []) := rfl

theorem test_decode_i2cReadData : decode ⟨0x11000ABC, []⟩ = .ok (.i2cReadData 0xABC []) := rfl

theorem test_decode_i2cReadByte : decode ⟨0x12000000, []⟩ = .ok (.i2cReadByte []) := rfl

theorem test_decode_i2cWriteCmdData : decode ⟨0x13123456, []⟩ = .ok (.i2cWriteCmdData 0x123 0x456 []) := rfl

theorem test_decode_i2cWriteData : decode ⟨0x14000ABC, []⟩ = .ok (.i2cWriteData 0xABC []) := rfl

theorem test_decode_i2cWriteByte : decode ⟨0x1500008F, []⟩ = .ok (.i2cWriteByte 0x8F []) := rfl

theorem test_decode_i2cStart : decode ⟨0x18000000, []⟩ = .ok (.i2cStart []) := rfl

theorem test_decode_i2cStop : decode ⟨0x19000000, []⟩ = .ok (.i2cStop []) := rfl

theorem test_decode_i2cTxBit : decode ⟨0x1A000001, []⟩ = .ok (.i2cTxBit true []) := rfl

theorem test_decode_i2cRxBit : decode ⟨0x1B000000, []⟩ = .ok (.i2cRxBit []) := rfl

theorem test_decode_i2cAckPoll : decode ⟨0x1C000000, []⟩ = .ok (.i2cAckPoll []) := rfl

theorem test_decode_i2cTxByte : decode ⟨0x1D00008F, []⟩ = .ok (.i2cTxByte 0x8F []) := rfl

theorem test_decode_i2cRxByte : decode ⟨0x1E000001, []⟩ = .ok (.i2cRxByte true []) := rfl

theorem test_decode_i2cAddr : decode ⟨0x1F000002, []⟩ = .ok (.i2cAddr true false []) := rfl

theorem test_decode_twReadCmdData : decode ⟨0x20123456, []⟩ = .ok (.twReadCmdData 0x123 0x456 []) := rfl

theorem test_decode_twReadData : decode ⟨0x21000ABC, []⟩ = .ok (.twReadData 0xABC []) := rfl

theorem test_decode_twReadByte : decode ⟨0x22000000, []⟩ = .ok (.twReadByte []) := rfl

theorem test_decode_twWriteCmdData : decode ⟨0x23123456, []⟩ = .ok (.twWriteCmdData 0x123 0x456 []) := rfl

theorem test_decode_twWriteData : decode ⟨0x24000ABC, []⟩ = .ok (.twWriteData 0xABC []) := rfl

theorem test_decode_twWriteByte : decode ⟨0x2500008F, []⟩ = .ok (.twWriteByte 0x8F []) := rfl

theorem test_decode_twBegin : decode ⟨0x28000000, []⟩ = .ok (.twBegin []) := rfl

theorem test_decode_twEnd : decode ⟨0x29000000, []⟩ = .ok (.twEnd []) := rfl

theorem test_decode_twTxBit : decode ⟨0x2A000001, []⟩ = .ok (.twTxBit true []) := rfl

theorem test_decode_twRxBit : decode ⟨0x2B000000, []⟩ = .ok (.twRxBit []) := rfl

theorem test_decode_twTxByte : decode ⟨0x2D00008F, []⟩ = .ok (.twTxByte 0x8F []) := rfl

theorem test_decode_twRxByte : decode ⟨0x2E000000, []⟩ = .ok (.twRxByte []) := rfl

theorem test_decode_ctlInit : decode ⟨0x30000000, []⟩ = .ok (.ctlInit []) := rfl

theorem test_decode_ctlGetBrightness : decode ⟨0x31000000, []⟩ = .ok (.ctlGetBrightness []) := rfl

theorem test_decode_ctlSetBrightness : decode ⟨0x3200008F, []⟩ = .ok (.ctlSetBrightness 0x8F []) := rfl

theorem test_decode_ctlGetPower : decode ⟨0x33000000, []⟩ = .ok (.ctlGetPower []) := rfl

theorem test_decode_ctlSetPower : decode ⟨0x34000001, []⟩ = .ok (.ctlSetPower true []) := rfl

theorem test_decode_ctlGetDescriptor : decode ⟨0x35000000, []⟩ = .ok (.ctlGetDescriptor []) := rfl

theorem test_decode_ctlSetDescriptor : decode ⟨0x36000000, []⟩ = .ok (.ctlSetDescriptor []) := rfl

theorem test_decode_ctlSetIcon : decode ⟨0x3700F001, []⟩ = .ok (.ctlSetIcon 15 true []) := rfl

theorem test_decode_ctlReadRaw : decode ⟨0x38000ABC, []⟩ = .ok (.ctlReadRaw 0xABC []) := rfl

theorem test_decode_ctlWriteRaw : decode ⟨0x39000ABC, []⟩ = .ok (.ctlWriteRaw 0xABC []) := rfl

theorem test_decode_ctlWriteDisplayFrame :
    decode ⟨0x3A000ABC, []⟩ = .ok (.ctlWriteDisplayFrame 0xABC []) := rfl

theorem test_decode_ctlSetOrder : decode ⟨0x3B000000, []⟩ = .ok (.ctlSetOrder []) := rfl

theorem test_decode_ctlSetIndicatorMask : decode ⟨0x3C000000, []⟩ = .ok (.ctlSetIndicatorMask []) := rfl

theorem test_decode_ctlGetMode : decode ⟨0x3D000000, []⟩ = .ok (.ctlGetMode []) := rfl

theorem test_decode_ctlSetMode : decode ⟨0x3E00008F, []⟩ = .ok (.ctlSetMode 0x8F []) := rfl

theorem test_decode_ctlReloadDefaults : decode ⟨0x3F000000, []⟩ = .ok (.ctlReloadDefaults []) := rfl

theorem test_decode_dpTranspose8 : decode ⟨0x40000000, []⟩ = .ok (.dpTranspose8 []) := rfl

theorem test_decode_dpScatter : decode ⟨0x41000000, []⟩ = .ok (.dpScatter []) := rfl

theorem test_decode_dpXfDirect : decode ⟨0x42000000, []⟩ = .ok (.dpXfDirect []) := rfl

theorem test_decode_dpXfTransposed : decode ⟨0x43000000, []⟩ = .ok (.dpXfTransposed []) := rfl

theorem test_decode_dpXfNarrow5 : decode ⟨0x44000000, []⟩ = .ok (.dpXfNarrow5 []) := rfl

theorem test_decode_dpXfMuxext : decode ⟨0x45000000, []⟩ = .ok (.dpXfMuxext []) := rfl

theorem test_decode_dpCharToMask : decode ⟨0x4600008F, []⟩ = .ok (.dpCharToMask 0x8F []) := rfl

theorem test_decode_dpLedClock : decode ⟨0x47E2C022, []⟩ = .ok (.dpLedClock 56 true 12 34 []) := rfl

theorem test_decode_oledCmd : decode ⟨0x50000ABC, []⟩ = .ok (.oledCmd 0xABC []) := rfl

theorem test_decode_oledData : decode ⟨0x51000ABC, []⟩ = .ok (.oledData 0xABC []) := rfl

theorem test_decode_oledWindow : decode ⟨0x52000ABC, []⟩ = .ok (.oledWindow 0xABC []) := rfl

theorem test_decode_oledClear : decode ⟨0x53000000, []⟩ = .ok (.oledClear []) := rfl

theorem test_decode_miscGetVersion : decode ⟨0x60000000, []⟩ = .ok (.miscGetVersion []) := rfl

/-- Words of no row, with the cause of each (V-ENC-9 to V-ENC-21). -/
theorem test_illegal_words :
    decode ⟨0x00000000, []⟩ = .error .reservedUnit ∧ decode ⟨0x7F000000, []⟩ = .error .reservedUnit ∧
    decode ⟨0x16000000, []⟩ = .error .reservedOp ∧ decode ⟨0x2C000000, []⟩ = .error .reservedOp ∧
    decode ⟨0x48000000, []⟩ = .error .reservedOp ∧ decode ⟨0x54000000, []⟩ = .error .reservedOp ∧
    decode ⟨0x61000000, []⟩ = .error .reservedOp :=
  ⟨rfl, rfl, rfl, rfl, rfl, rfl, rfl⟩

theorem test_must_be_zero :
    decode ⟨0x12000001, []⟩ = .error .mustBeZero ∧ decode ⟨0x1A000002, []⟩ = .error .mustBeZero ∧
    decode ⟨0x11001001, []⟩ = .error .mustBeZero ∧ decode ⟨0x15000100, []⟩ = .error .mustBeZero ∧
    decode ⟨0x47000040, []⟩ = .error .mustBeZero ∧ decode ⟨0x37014001, []⟩ = .error .mustBeZero :=
  ⟨rfl, rfl, rfl, rfl, rfl, rfl⟩

/-- The opcode table's numbering: the word, and zeros for the payload it asks for. -/
theorem test_table_word : decodeTableWord 32 0x3B000000 = some (.ctlSetOrder [0, 0, 0, 0, 0, 0, 0]) := rfl

/-! The vectors. -/

/-- STATUS, RXQ and the number of events of one step on a command at the port. -/
def answer (cw : BitVec 32) (txp : List Byte) (s : State) : Option (BitVec 17 × List Byte × Nat) :=
  match step (withCommand ⟨cw, txp⟩ s) with
  | .next t => some (statusWord t.status, t.rxq, t.trace.length - s.trace.length)
  | _ => none

/-- What one step on a command leaves, and the state as it was where it does not finish. -/
def after (cw : BitVec 32) (txp : List Byte) (s : State) : State :=
  match step (withCommand ⟨cw, txp⟩ s) with
  | .next t => t
  | _ => s

/-- The reset state, with an open I2C transaction, with an open TW frame, or on another backend. -/
def held : State := { State.reset with i2cs := { bus := .held, sda := .low, scl := .low } }
def opened (dir : TwDir) (n : BitVec 3) : State :=
  { State.reset with tws := { State.reset.tws with frame := .opened, dir := dir, bitcnt := n, stb := .driven false } }
def onBackend (b : Backend) : State := { State.reset with ctlr := { State.reset.ctlr with active := b } }
def ofKind (kind addr flags : Byte) : State :=
  { State.reset with ctlr := { State.reset.ctlr with desc := kind ++ flags ++ addr ++ (0 : Byte) } }
def addressing (m : AddrMode) (s : State) : State :=
  { s with cfg := { s.cfg with i2c := { s.cfg.i2c with amode := m, addr := 0x2A5 } } }
def ordered (o : Seven (Fin 7)) : State := { State.reset with ctlr := { State.reset.ctlr with order := o } }

/-- The oracle's answers to come. -/
def hearing (answers : List Bool) (s : State) : State := { s with env := { s.env with answers := answers } }

/-- V-TW-2. -/
theorem test_tw_write_cmd :
    answer 0x23001002 [0xC0, 0x3F, 0x00] State.reset = some (0x00000, [], 125) := by decide +kernel

/-- V-TW-3. -/
theorem test_tw_write_nothing : answer 0x24000000 [] State.reset = some (0x00000, [], 5) := by decide +kernel

/-- V-TW-4. -/
theorem test_tw_read_data :
    answer 0x21000001 [] (hearing [true, false, false, false, false, false, false, false] State.reset) =
      some (0x00000, [0x01], 45) := by decide +kernel

/-- V-TW-5. -/
theorem test_tw_read_cmd :
    answer 0x20001002 [0x42] (hearing [true, false, false, false, false, false, false, false, false, false, false, false, false, false, false, true] State.reset) =
      some (0x00000, [0x01, 0x80], 127) := by decide +kernel

/-- V-TW-7. -/
theorem test_tw_read_zero : answer 0x20001000 [0x42] State.reset = some (0x00000, [], 0) := by decide +kernel

/-- V-TW-8. -/
theorem test_tw_length : answer 0x23001001 [0x40] State.reset = some (0x00003, [], 0) := by decide +kernel

/-- V-TW-9, step 1. -/
theorem test_tw_end_idle : answer 0x29000000 [] State.reset = some (0x00004, [], 0) := by decide +kernel

/-- V-TW-9, step 3. -/
theorem test_tw_begin_open :
    answer 0x28000000 [] (opened .input 0) = some (0x00004, [], 0) := by decide +kernel

/-- V-TW-9, step 6. -/
theorem test_tw_rxbit_turns :
    answer 0x2B000000 [] (hearing [true] (opened .output 0)) = some (0x00000, [0x01], 7) := by decide +kernel

/-- V-TW-9, step 7. -/
theorem test_tw_txbit_mid_byte :
    answer 0x2A000001 [] (opened .input 1) = some (0x00004, [], 0) := by decide +kernel

/-- V-TW-9, step 8. -/
theorem test_tw_rxbyte_mid_byte :
    answer 0x2E000000 [] (opened .input 1) = some (0x00004, [], 0) := by decide +kernel

/-- V-TW-11. -/
theorem test_tw_rxbyte_turns :
    answer 0x2E000000 [] (hearing [false, true, true, true, true, true, true, true] (opened .output 0)) =
      some (0x00000, [0xFE], 42) := by decide +kernel

/-- V-TW-13. -/
theorem test_tw_end_mid_byte :
    answer 0x29000000 [] (opened .output 1) = some (0x00000, [], 3) := by decide +kernel

/-- V-I2C-1. -/
theorem test_i2c_stop_idle : answer 0x19000000 [] State.reset = some (0x00004, [], 0) := by decide +kernel

/-- V-I2C-6. -/
theorem test_i2c_rxbit :
    answer 0x1B000000 [] (hearing [true] held) = some (0x00000, [0x01], 6) := by decide +kernel

/-- V-I2C-8. -/
theorem test_i2c_ackpoll_timeout :
    answer 0x1C000000 [] (hearing [false, false, false, false] held) =
      some (0x00011, [0x01], 11) := by decide +kernel

/-- V-I2C-9. -/
theorem test_i2c_ackpoll_nack :
    answer 0x1C000000 [] (hearing [true, true] held) = some (0x00001, [0x01], 7) := by decide +kernel

/-- V-I2C-10. -/
theorem test_i2c_rstart : answer 0x18000000 [] held = some (0x00000, [], 8) := by decide +kernel

/-- V-I2C-11. -/
theorem test_i2c_write_held : answer 0x15000008 [] held = some (0x00004, [], 0) := by decide +kernel

/-- V-I2C-14. -/
theorem test_i2c_txbyte :
    answer 0x1D000078 [] (hearing (ackAnswers 1) held) = some (0x00020, [0x00], 47) := by decide +kernel

/-- V-I2C-15. -/
theorem test_i2c_rxbyte :
    answer 0x1E000001 [] (hearing [true, false, true, false, false, true, false, true] held) =
      some (0x00000, [0xA5], 46) := by decide +kernel

/-- V-I2C-17. -/
theorem test_i2c_addr_none :
    answer 0x1F000000 [] (addressing .none held) = some (0x00000, [0x00], 0) := by decide +kernel

/-- V-I2C-18. -/
theorem test_i2c_addr_ten :
    answer 0x1F000001 [] (hearing (ackAnswers 3) (addressing .a10 held)) =
      some (0x00060, [0x00], 149) := by decide +kernel

/-- V-I2C-21. -/
theorem test_i2c_write_cmd :
    answer 0x13001002 [0x00, 0xAE, 0xAF] (hearing (ackAnswers 4) State.reset) =
      some (0x00080, [], 198) := by decide +kernel

/-- V-I2C-24. -/
theorem test_i2c_write_nack :
    answer 0x14000002 [0x12, 0x34] (hearing (ackAnswers 2 ++ [true, true]) State.reset) =
      some (0x00041, [], 151) := by decide +kernel

/-- V-I2C-25. -/
theorem test_i2c_write_stuck :
    answer 0x14000001 [0x12] (hearing [false, false, false, false] State.reset) =
      some (0x00011, [], 61) := by decide +kernel

/-- V-I2C-38. -/
theorem test_i2c_write_stretched :
    answer 0x150000AF [] (hearing [false, true, false, false, true, false] State.reset) =
      some (0x00040, [], 108) := by decide +kernel

/-- V-I2C-30. -/
theorem test_i2c_read_cmd :
    answer 0x10001001 [0x00] (hearing (ackAnswers 3 ++ [true, false, true, false, false, true, false, true]) State.reset) =
      some (0x00060, [0xA5], 205) := by decide +kernel

/-- V-I2C-34. -/
theorem test_i2c_read_none :
    answer 0x10001001 [0x05] (hearing (ackAnswers 1 ++ List.replicate 8 false) (addressing .none State.reset)) =
      some (0x00020, [0x00], 103) := by decide +kernel

/-- V-I2C-36. -/
theorem test_i2c_read_ten :
    answer 0x11000001 [] (hearing (ackAnswers 3 ++ [true, true, true, true, false, false, false, false]) (addressing .a10 State.reset)) =
      some (0x00060, [0xF0], 205) := by decide +kernel

/-- V-I2C-42. -/
theorem test_i2c_read_byte_msb :
    answer 0x12000000 [] (hearing (ackAnswers 1 ++ [true, true, false, false, false, false, false, false]) State.reset) =
      some (0x00020, [0xC0], 103) := by decide +kernel

/-- V-CTL-1. -/
theorem test_ctl_init : answer 0x30000000 [] State.reset = some (0x00000, [], 94) := by decide +kernel

/-- V-CTL-3. -/
theorem test_ctl_brightness_rejected :
    answer 0x32000008 [] State.reset = some (0x00002, [], 0) := by decide +kernel

/-- V-CTL-7. -/
theorem test_ctl_write_raw :
    answer 0x39000002 [0x00, 0x00, 0x3F, 0x00] State.reset = some (0x00000, [0x02], 650) := by decide +kernel

/-- V-CTL-8. -/
theorem test_ctl_write_raw_eight :
    answer 0x39000008 (List.replicate 16 0) State.reset = some (0x00003, [], 0) := by decide +kernel

/-- V-CTL-9. -/
theorem test_ctl_descriptor_rejected :
    answer 0x36000000 [9, 0, 0, 0] State.reset = some (0x00002, [], 0) := by decide +kernel

/-- V-ENC-22. -/
theorem test_ctl_descriptor_length_first :
    answer 0x36000000 [9, 0, 0] State.reset = some (0x00003, [], 0) := by decide +kernel

/-- V-CTL-11. -/
theorem test_ctl_order_rejected :
    answer 0x3B000000 [0, 1, 2, 3, 4, 5, 7] State.reset = some (0x00002, [], 0) := by decide +kernel

/-- V-CTL-15. -/
theorem test_ctl_probe_fails :
    answer 0x36000000 [0x00, 0x27, 0x00, 0x01] (hearing [true, true] State.reset) =
      some (0x00000, [], 57) := by decide +kernel

/-- V-CTL-16. -/
theorem test_ctl_read_raw :
    answer 0x38000002 [] (hearing [false, false, false, false, false, false, true, false, true, true, true, true, true, true, true, true] State.reset) =
      some (0x00000, [0x40, 0xFF], 127) := by decide +kernel

/-- V-CTL-19. -/
theorem test_misc_version :
    answer 0x60000000 [] State.reset = some (0x00000, [0x56, 0x31], 0) := by decide +kernel

/-- V-SEQ-1. -/
theorem test_ctl_sequencing_first : answer 0x39000002 [] held = some (0x00004, [], 0) := by decide +kernel

/-- V-SEQ-1. -/
theorem test_illegal_first : answer 0x12000001 [] held = some (0x0000F, [], 0) := by decide +kernel

/-- E2. -/
theorem test_dp_transpose :
    answer 0x40000000 [0x12, 0x34, 0x56, 0x78, 0x9A, 0xBC, 0xDE, 0xF0] held =
      some (0x00000, [0x00, 0x55, 0x66, 0x78, 0xFF, 0xAA, 0xCC, 0xF0], 0) := by decide +kernel

/-- V-DP-3. -/
theorem test_dp_scatter_duplicates :
    answer 0x41000000 [1, 0, 2, 0, 3, 0, 4, 0, 5, 0, 6, 0, 7, 0] (ordered ⟨0, 0, 1, 2, 3, 4, 5⟩) =
      some (0x00000, [2, 0, 3, 0, 4, 0, 5, 0, 6, 0, 7, 0, 0, 0], 0) := by decide +kernel

/-- V-DP-1. -/
theorem test_dp_direct :
    answer 0x42000000 [1, 0, 2, 0, 3, 0, 4, 0, 5, 0, 6, 0, 7, 0] State.reset =
      some (0x00000, [1, 0, 2, 0, 3, 0, 4, 0, 5, 0, 6, 0, 7, 0], 0) := by decide +kernel

/-- V-DP-4. -/
theorem test_dp_transposed :
    answer 0x43000000 [0x00, 0, 0x3F, 0, 0x06, 0, 0x5B, 0, 0x4F, 0, 0x66, 0, 0x6D, 0] (ordered ⟨6, 5, 4, 3, 2, 1, 0⟩) =
      some (0x00000, [0x78, 0, 0x62, 0, 0x0A, 0, 0x5A, 0, 0x76, 0, 0x3E, 0, 0x5A, 0], 0) := by decide +kernel

/-- V-DP-5. -/
theorem test_dp_narrow :
    answer 0x44000000 [0x02, 0, 0x3F, 0, 0x6F, 0, 0x3F, 0, 0x6D, 0, 0x06, 0, 0x5B, 0] State.reset =
      some (0x00000, [0x00, 0, 0x3F, 0, 0xEF, 0, 0x3F, 0, 0x6D, 0, 0x06, 0, 0x00, 0], 0) := by decide +kernel

/-- V-DP-6. -/
theorem test_dp_narrow_no_colon :
    answer 0x44000000 [0xFD, 0xFF, 0x3F, 0, 0x6F, 0, 0x3F, 0, 0x6D, 0, 0x06, 0, 0x5B, 0] State.reset =
      some (0x00000, [0x00, 0, 0x3F, 0, 0x6F, 0, 0x3F, 0, 0x6D, 0, 0x06, 0, 0x00, 0], 0) := by decide +kernel

/-- V-DP-8. -/
theorem test_dp_muxext :
    answer 0x45000000 [0xFF, 0, 0x7F, 0, 0x3F, 0, 0x1F, 0, 0xE0, 0xC0, 0x00, 0x38, 0, 0] State.reset =
      some (0x00000, [0xFF, 0x38, 0x7F, 0x18, 0x3F, 0x08, 0x1F, 0, 0xE0, 0xF8, 0x00, 0x38, 0, 0], 0) := by decide +kernel

/-- E1. -/
theorem test_dp_char : answer 0x46000035 [] State.reset = some (0x00000, [0x6D], 0) := by decide +kernel

/-- E1. -/
theorem test_dp_char_absent :
    answer 0x4600007E [] State.reset = some (0x00000, [0x00], 0) := by decide +kernel

/-- V-DP-12. -/
theorem test_dp_clock :
    answer 0x47E2C022 [] (ofKind 0 0 0x08) =
      some (0x00000, [0x02, 0, 0x06, 0, 0x5B, 0, 0x4F, 0, 0x66, 0, 0x6D, 0, 0x7D, 0], 0) := by decide +kernel

/-- V-DP-12. -/
theorem test_dp_clock_rejected : answer 0x47018000 [] State.reset = some (0x00002, [], 0) := by decide +kernel

/-- V-OL-1. -/
theorem test_oled_cmd :
    answer 0x50000001 [0xAF] (hearing (ackAnswers 3) (onBackend .oledA)) =
      some (0x00060, [], 151) := by decide +kernel

/-- V-OL-10. -/
theorem test_oled_cmd_nack :
    answer 0x50000001 [0xAF] (hearing (ackAnswers 2 ++ [true, true]) (onBackend .oledA)) =
      some (0x00041, [], 151) := by decide +kernel

/-- V-OL-2. -/
theorem test_oled_data :
    answer 0x51000001 [0xFF] (hearing (ackAnswers 3) (onBackend .oledA)) =
      some (0x00060, [], 151) := by decide +kernel

/-- V-OL-5. -/
theorem test_oled_window_a :
    answer 0x52000004 [0x0A, 0x0B, 2, 3, 1, 2, 3, 4] (hearing (ackAnswers 16) (onBackend .oledA)) =
      some (0x000C0, [], 678) := by decide +kernel

/-- V-OL-6. -/
theorem test_oled_window_b :
    answer 0x52000004 [0x0A, 0x0B, 2, 3, 1, 2, 3, 4] (hearing (ackAnswers 18) (onBackend .oledB)) =
      some (0x00080, [], 886) := by decide +kernel

/-- V-OL-8. -/
theorem test_oled_window_rejected :
    answer 0x52000001 [3, 2, 0, 0, 1] (onBackend .oledA) = some (0x00002, [], 0) := by decide +kernel

/-- 44_backends.md R365. -/
theorem test_oled_clear_led : answer 0x53000000 [] State.reset = some (0x00005, [], 0) := by decide +kernel

/-- V-LCD-1. -/
theorem test_lcd_init :
    answer 0x36000000 [0x00, 0x27, 0x00, 0x01] (hearing (ackAnswers 60) State.reset) =
      some (0x00060, [], 2286) := by decide +kernel

/-- 70_reset_and_hazards.md R455: with POWER = 0 the enable bit stays 0 at a level another backend let above 7. -/
theorem test_power_wins_at_high_levels : ledBrightByte 8 false = 0x80 ∧ ledBrightByte 0x0A true = 0x8A := by decide

/-- 00_scope.md R8, 44_backends.md R345: with BUS_OF(LCD) = TW the brightness commands of R356 are frames of 1, 2 and 2 bytes. -/
theorem test_bus_of_is_a_parameter :
    answer 0x32000005 [] { onBackend .lcd with par := { State.reset.par with bus := [(.lcd, .tw)] } } =
      some (0x00000, [], 45 + 85 + 85 + 1) := by decide +kernel

/-- E6, V-I2C-10: the traces of START and STOP. -/
theorem test_start_trace :
    (after 0x18000000 [] State.reset).trace = [.set .sda false, .delay 1, .set .scl false, .delay 1] := by decide +kernel

theorem test_stop_trace :
    (after 0x19000000 [] held).trace =
      [.set .sda false, .delay 1, .setInput .scl, .delay 1, .setInput .sda, .delay 1] := by decide +kernel

/-- V-I2C-4 and V-I2C-5. -/
theorem test_txbit_trace :
    (after 0x1A000001 [] held).trace = [.setInput .sda, .delay 1, .setInput .scl, .delay 1, .set .scl false] ∧
    (after 0x1A000000 [] held).trace = [.set .sda false, .delay 1, .setInput .scl, .delay 1, .set .scl false] := by decide +kernel

/-- V-I2C-7. -/
theorem test_ackpoll_trace :
    (after 0x1C000000 [] (hearing [false, false, true, false] held)).trace =
      [.setInput .sda, .delay 1, .setInput .scl, .read .scl false, .delay 1, .read .scl false, .delay 1, .read .scl true, .delay 1,
        .read .sda false, .set .scl false] := by decide +kernel

/-- E7: the bits of 0x40, LSB first, as DIO is driven. -/
theorem test_tw_write_byte_trace :
    (after 0x25000040 [] State.reset).trace =
      [.set .stb false, .delay 1] ++
      [false, false, false, false, false, false, true, false].flatMap (fun b =>
        [.set .clk false, .set .dio b, .delay 1, .set .clk true, .delay 1]) ++
      [.set .stb true, .setInput .dio, .delay 1] := by decide +kernel

/-- V-CTL-1: the line set-up and the start of the mode frame. -/
theorem test_led_init_trace :
    (after 0x30000000 [] State.reset).trace.take 8 =
      [.set .stb true, .set .clk true, .setInput .dio, .delay 1, .set .stb false, .delay 1, .set .clk false, .set .dio true] := by
  decide +kernel

/-- V-I2C-40: the payload LSB first, the address MSB first. -/
theorem test_address_order :
    (after 0x14000001 [0x01]
      (hearing (ackAnswers 2) { State.reset with cfg := { State.reset.cfg with i2c := { defaultI2cCfg with lsbf := true } } })).trace =
      transactionEvents { defaultI2cCfg with lsbf := true } 1 [0x01] ∧
    bitsIn true 0x01 = [true, false, false, false, false, false, false, false] ∧
    bitsIn false 0x78 = [false, true, true, true, true, false, false, false] := by decide +kernel

/-- V-CTL-12: the icons merged into slot 0. -/
theorem test_icon_merge :
    (after 0x39000001 [0x00, 0x00] (after 0x3C000000 [0x02, 0x01] State.reset)).wbuf = ⟨0x0102, 0, 0, 0, 0, 0, 0⟩ := by decide +kernel

/-- V-CTL-13: an icon set, and cleared again. -/
theorem test_icon_set : (after 0x37004001 [] State.reset).ctlr.icon = 0x0002 := by decide +kernel
theorem test_icon_cleared :
    (after 0x37004000 [] (after 0x37004001 [] State.reset)).ctlr.icon = 0 := by decide +kernel

/-- V-CTL-10: the descriptor's flag selects the layout. -/
theorem test_descriptor_layout :
    (after 0x36000000 [0, 0, 1, 0] State.reset).ctlr.layout = .transposed := by decide +kernel

/-- V-CTL-15: a failed probe leaves DUMMY, and the address of the descriptor applied. -/
theorem test_probe_leaves_dummy :
    (after 0x36000000 [0x00, 0x27, 0x00, 0x01] (hearing [true, true] State.reset)).ctlr.active = .dummy ∧
    (after 0x36000000 [0x00, 0x27, 0x00, 0x01] (hearing [true, true] State.reset)).cfg.i2c.addr = 0x27 := by decide +kernel

/-- V-CTL-4 and V-CTL-5: power off, then a new level, which stays off. -/
theorem test_power_wins :
    (after 0x32000005 [] (after 0x34000000 [] State.reset)).ctlr.power = false ∧
    (after 0x32000005 [] (after 0x34000000 [] State.reset)).ctlr.bright = 5 := by decide +kernel

/-- V-CTL-20: a reload restores the registers and keeps WBUF. -/
theorem test_reload :
    (after 0x3F000000 [] (after 0x39000001 [0x02, 0x01] (after 0x3C000000 [0x10, 0x00] State.reset))).ctlr = State.reset.ctlr ∧
    (after 0x3F000000 [] (after 0x39000001 [0x02, 0x01] (after 0x3C000000 [0x10, 0x00] State.reset))).wbuf.a0 = 0x0112 := by
  decide +kernel

/-- V-CTL-11, V-CTL-18: the order and the mode. -/
theorem test_order :
    (after 0x3B000000 [6, 5, 4, 3, 2, 1, 0] State.reset).ctlr.order = ⟨6, 5, 4, 3, 2, 1, 0⟩ := by decide +kernel
theorem test_mode :
    (answer 0x3D000000 [] (after 0x3E000002 [] State.reset)) = some (0, [0x02], 0) := by decide +kernel

/-- E2: the intermediate words of the swaps. -/
theorem test_swap_passes :
    swapPass 7 0x00AA00AA00AA00AA 0xFF7F3F1F0F070301 = 0xBFFF2F3F0B0F0203 ∧
    swapPass 14 0x0000CCCC0000CCCC 0xBFFF2F3F0B0F0203 = 0x8FCFEFFF080C0E0F ∧
    swapPass 28 0x00000000F0F0F0F0 0x8FCFEFFF080C0E0F = 0x80C0E0F0F8FCFEFF := by decide +kernel

/-- A command placed for the host's fetch runs as the first step after reset. -/
theorem test_fetch :
    step (State.reset.withFetchWord 32 0x31000000) = .next (answered .ok [7] State.reset) := rfl

/-- The refusal of a display frame on an OLED (60_exceptions.md R413). -/
theorem test_rendering_refused :
    exec (.ctlWriteDisplayFrame 5 [0, 0, 0, 0, 0]) (onBackend .oledA) = .refused .renderingEngine := rfl
/-! Witnesses: for each statement with hypotheses, operands and states that meet them, clause by clause. -/

/-- Acknowledges of a list of answers, as one computation. -/
theorem acksAtOnce_of {s : State} {k : Nat}
    (h : (List.range k).all (fun j => answerAt s (2 * j) && !answerAt s (2 * j + 1)) = true) : acksAtOnce s k := by
  intro j hj
  have := List.all_eq_true.1 h j (List.mem_range.2 hj)
  simpa using this

/-- What a meaning leaves, and the state as it was where it stops. -/
def left (i : Instr) (s : State) : State :=
  match exec i s with
  | .next t => t
  | _ => s

theorem inv_reset : Inv State.reset where
  ready := rfl
  running := rfl
  i2c_idle := fun _ => ⟨rfl, rfl⟩
  i2c_held := by decide
  tw_idle := fun _ => ⟨rfl, rfl⟩
  tw_released := fun _ => rfl
  order_fixed := ⟨rfl, rfl⟩
  delays_fixed := ⟨rfl, rfl, rfl⟩
  bitcnt_legal := by decide
  tmocnt_legal := by decide
  rxq_bounded := fun _ => by decide
  layout_selected := rfl
  active_selected := .inl rfl
  type_legal := .inl (by decide)
  bright_legal := fun _ _ => by decide

theorem inv_command (c : Command) : Inv (withCommand c State.reset) :=
  ⟨rfl, rfl, inv_reset.i2c_idle, inv_reset.i2c_held, inv_reset.tw_idle, inv_reset.tw_released, inv_reset.order_fixed,
    inv_reset.delays_fixed, inv_reset.bitcnt_legal, inv_reset.tmocnt_legal, inv_reset.rxq_bounded, inv_reset.layout_selected,
    inv_reset.active_selected,
    inv_reset.type_legal, inv_reset.bright_legal⟩

theorem test_witness_EncodeOfDecode :
    decode ⟨0x13001002, [0x00, 0xAE, 0xAF]⟩ = .ok (.i2cWriteCmdData 1 2 [0x00, 0xAE, 0xAF]) := rfl

theorem test_witness_PayloadIsFixedByTheWord :
    (Instr.i2cWriteCmdData 1 2 [0x00, 0xAE, 0xAF]).WellFormed ∧ (Instr.oledWindow 0 [0, 0, 0, 0]).WellFormed ∧
    (Instr.ctlInit []).WellFormed := by decide

theorem test_witness_MaskAndMatchSelectTheRow :
    (⟨"CTL.SET_ICON", 0x37000000, 0xFFFF0FFE⟩ : OpcodeRow) ∈ opcodeRows := by decide +kernel

theorem test_witness_StepRunsTheDecodedCommand :
    let s := withCommand ⟨0x18000000, []⟩ State.reset
    s.seq = .ready ∧ s.refused = false ∧ s.env.inbox = [.command ⟨0x18000000, []⟩] ∧
      decode ⟨0x18000000, []⟩ = .ok (.i2cStart []) := ⟨rfl, rfl, rfl, rfl⟩

theorem test_witness_IllegalWordsChangeNothing :
    let s := withCommand ⟨0x12000001, [7]⟩ held
    s.seq = .ready ∧ s.refused = false ∧ s.env.inbox = [.command ⟨0x12000001, [7]⟩] ∧
      ∀ r, r ∈ opcodeRows → r.covers 0x12000001 = false := ⟨rfl, rfl, rfl, by decide +kernel⟩

theorem test_witness_IdleAndResetSteps :
    (State.reset.refused = false ∧ State.reset.env.inbox = []) ∧
    (held.seq = .ready ∧ held.refused = false ∧
      { held with env := { held.env with inbox := [.reset] } }.env.inbox = .reset :: []) := ⟨⟨rfl, rfl⟩, rfl, rfl, rfl⟩

theorem test_witness_SequencingIsCheckedFirst :
    busReady (.i2cStop [1]) State.reset = false ∧ busReady (.i2cWriteByte 0 []) held = false ∧
    busReady (.twTxByte 0 []) (opened .output 1) = false ∧ busReady (.twTxBit true [0]) (opened .input 3) = false ∧
    busReady (.twRxBit [0]) (opened .output 3) = false ∧ busReady (.twBegin []) (opened .input 0) = false ∧
    busReady (.ctlInit []) held = false ∧ busReady (.miscGetVersion []) (opened .input 0) = false := by decide +kernel

theorem test_witness_PayloadLengthIsCheckedSecond :
    (busReady (.ctlSetOrder [0]) State.reset = true ∧ ¬ (Instr.ctlSetOrder [0]).WellFormed) ∧
    (busReady (.twTxBit true [0]) (opened .output 3) = true ∧ ¬ (Instr.twTxBit true [0]).WellFormed) := by decide +kernel

theorem test_witness_TurnedAwayCommandsChangeNothing :
    exec (.ctlSetBrightness 8 []) State.reset = .next (left (.ctlSetBrightness 8 []) State.reset) ∧
    turnedAway (left (.ctlSetBrightness 8 []) State.reset).status.rc = true := ⟨rfl, rfl⟩

theorem test_witness_EveryCommandFinishes :
    ((Instr.ctlWriteDisplayFrame 5 []).mnemonic = "CTL.WRITE_DISPLAY_FRAME" → State.reset.ctlr.active = .led ∨ State.reset.ctlr.active = .dummy) ∧
    ((Instr.oledClear []).mnemonic = "CTL.WRITE_DISPLAY_FRAME" → (onBackend .lcd).ctlr.active = .led ∨ (onBackend .lcd).ctlr.active = .dummy) := by
  decide +kernel

theorem test_witness_EveryStepKeepsTheInvariant :
    Inv (withCommand ⟨0x18000000, []⟩ State.reset) ∧
    step (withCommand ⟨0x18000000, []⟩ State.reset) = .next (after 0x18000000 [] State.reset) := ⟨inv_command _, rfl⟩

/-- For every clause, a command that finishes and changes the register. -/
theorem test_witness_OnlyTheListedCommandsWriteEachRegister :
    (left (.ctlSetBrightness 3 []) State.reset).ctlr.bright ≠ State.reset.ctlr.bright ∧
    (left (.ctlSetPower false []) State.reset).ctlr.power ≠ State.reset.ctlr.power ∧
    (left (.ctlSetMode 2 []) State.reset).ctlr.mode ≠ State.reset.ctlr.mode ∧
    (left (.ctlSetOrder [6, 5, 4, 3, 2, 1, 0]) State.reset).ctlr.order ≠ State.reset.ctlr.order ∧
    (left (.ctlSetIcon 4 true []) State.reset).ctlr.icon ≠ State.reset.ctlr.icon ∧
    (left (.ctlSetDescriptor [1, 0, 1, 0]) State.reset).ctlr.desc ≠ State.reset.ctlr.desc ∧
    (left (.ctlInit []) (onBackend .dummy)).ctlr.active ≠ (onBackend .dummy).ctlr.active ∧
    (left (.ctlReloadDefaults []) (addressing .a10 State.reset)).cfg.i2c.addr ≠ (addressing .a10 State.reset).cfg.i2c.addr ∧
    (left (.ctlWriteRaw 1 [1, 0]) State.reset).wbuf ≠ State.reset.wbuf ∧
    (left (.i2cStart []) State.reset).i2cs ≠ State.reset.i2cs ∧
    (left (.twBegin []) State.reset).tws ≠ State.reset.tws ∧
    (left (.twWriteByte 1 []) State.reset).dp ≠ State.reset.dp := by decide +kernel

theorem test_witness_EveryEventUpdatesItsLine :
    exec (.i2cStart []) State.reset = .next (left (.i2cStart []) State.reset) := rfl

/-- The state with the display off. -/
def dark (s : State) : State := { s with ctlr := { s.ctlr with power := false } }

/-- The display off, then a level and an INIT; an INIT on LED over TW, and one on an LCD whose probe is acknowledged. -/
theorem test_witness_PowerAlwaysWins :
    let probed (s : State) := startByteCount (probeTarget (applyAddress (setActive (backendOf s.par s.ctlr.desc) (begin s))))
    let lcd := hearing (ackAnswers 1) (dark (ofKind 1 0x27 0))
    let unlit : State := { State.reset with par := { State.reset.par with powerReset := false } }
    ((runAll [.ctlSetBrightness 5 [], .ctlInit []] (dark State.reset)).isSome = true ∧
      (∀ i : Instr, i ∈ [Instr.ctlSetBrightness 5 [], .ctlInit []] →
        i.mnemonic ≠ "CTL.SET_POWER" ∧ i.mnemonic ≠ "CTL.RELOAD_DEFAULTS")) ∧
    ((dark State.reset).i2cs.bus = .idle ∧ (dark State.reset).tws.frame = .idle ∧ (dark State.reset).ctlr.power = false ∧
      (7 : Byte).toNat < levels State.reset.par .led) ∧
    ((probed (dark State.reset)).ctlr.active = .led ∧ busOf State.reset.par .led = .tw) ∧
    (lcd.i2cs.bus = .idle ∧ lcd.tws.frame = .idle ∧ lcd.ctlr.power = false ∧ (probed lcd).ctlr.active = .lcd ∧
      lcd.par.oledInit = [] ∧ lcd.par.lcdMap = defaultLcdMap) ∧
    (3 : Byte).toNat < State.reset.par.numTypes ∧ State.reset.par.brightCmd = [] ∧
    (unlit.i2cs.bus = .idle ∧ unlit.tws.frame = .idle ∧ unlit.par.powerReset = false) := by decide +kernel

theorem test_witness_InitIsIdempotent :
    exec (.ctlInit []) State.reset = .next (left (.ctlInit []) State.reset) := rfl

theorem test_witness_TwWritesSendOneFrame :
    State.reset.tws.frame = .idle ∧ ([1, 2, 3] : List Byte).length = (1 : Len).toNat + (2 : Len).toNat ∧
    ([] : List Byte).length = (0 : Len).toNat + (0 : Len).toNat ∧ ([1] : List Byte).length = (1 : Len).toNat := by decide +kernel

theorem test_witness_TwReadsTakeOneFrame :
    State.reset.tws.frame = .idle ∧ State.reset.tws.dir = .input ∧ ([0x42] : List Byte).length = (1 : Len).toNat ∧
    ([] : List Byte).length = (0 : Len).toNat ∧ (1 : Len) ≠ 0 ∧ (0xFFF : Len) ≠ 0 := by decide +kernel

theorem test_witness_TwBeginAndEnd :
    State.reset.tws.frame = .idle ∧ (opened .output 3).tws.frame = .opened := ⟨rfl, rfl⟩

theorem test_witness_TwBitPrimitives :
    (opened .output 7).tws.frame = .opened ∧ ((opened .output 7).tws.dir = .output ∨ (opened .output 7).tws.bitcnt = 0) ∧
    ((opened .input 0).tws.dir = .output ∨ (opened .input 0).tws.bitcnt = 0) ∧ (opened .input 3).tws.dir = .input ∧
    ((opened .output 0).tws.dir = .output ∧ (opened .output 0).tws.bitcnt = 0) ∧
    ((opened .input 1).tws.dir = .input ∧ (opened .input 1).tws.bitcnt ≠ 0) ∧
    ((opened .output 7).tws.dir = .output ∧ (opened .output 7).tws.bitcnt ≠ 0) := by decide +kernel

theorem test_witness_TwBytePrimitives :
    (opened .output 0).tws.frame = .opened ∧ (opened .output 0).tws.bitcnt = 0 ∧ (opened .output 0).tws.dir = .output ∧
    (opened .input 0).tws.bitcnt = 0 ∧ (opened .input 0).tws.dir = .input := by decide +kernel

theorem test_witness_TwTraceLengthAndDuration :
    Inv State.reset ∧ State.reset.tws.frame = .idle ∧
    ((Instr.twReadCmdData 1 2 [0x42]).WellFormed ∧ twCounts (.twReadCmdData 1 2 [0x42]) = some (1, 2)) ∧
    ((Instr.twReadByte []).WellFormed ∧ twCounts (.twReadByte []) = some (0, 1)) ∧
    ((Instr.twWriteData 0 []).WellFormed ∧ twCounts (.twWriteData 0 []) = some (0, 0)) := ⟨inv_reset, by decide +kernel⟩

theorem test_witness_TwTargetSeesTheBytes :
    Inv State.reset ∧ State.reset.tws.frame = .idle ∧
    ((Instr.twWriteCmdData 1 1 [1, 2]).WellFormed ∧ (twCounts (.twWriteCmdData 1 1 [1, 2])).isSome = true) ∧
    ((Instr.twReadCmdData 1 1 [1]).WellFormed ∧ (twCounts (.twReadCmdData 1 1 [1])).isSome = true) ∧
    ((Instr.twWriteByte 3 []).WellFormed ∧ (twCounts (.twWriteByte 3 [])).isSome = true) := ⟨inv_reset, by decide +kernel⟩

theorem test_witness_I2cLinePrimitives : State.reset.i2cs.bus = .idle ∧ held.i2cs.bus = .held := ⟨rfl, rfl⟩

/-- SCL high at the first read, at the last read the bound allows, and never. -/
theorem test_witness_I2cAckPollSamplesOrTimesOut :
    held.i2cs.bus = .held ∧ clockRises (hearing [true, false] held) 0 ∧
    clockRises (hearing [false, false, false, true, true] held) 3 ∧ clockStuck (hearing [false, false, false, false] held) := by
  unfold clockRises clockStuck
  decide +kernel

theorem test_witness_I2cTxByteSendsAndPolls :
    (hearing [true, false] held).i2cs.bus = .held ∧ clockRises (hearing [true, false] held) 0 ∧
    clockStuck (hearing [false, false, false, false] held) := by
  unfold clockRises clockStuck
  decide +kernel

theorem test_witness_I2cRxByteSamplesAndAcknowledges : held.i2cs.bus = .held := rfl

/-- NONE; a 7-bit byte, acknowledged or not; a combined 10-bit read; a 10-bit header not acknowledged; a whole 10-bit write; a whole
10-bit read. -/
theorem test_witness_I2cAddrSendsTheAddress :
    (addressing .none held).cfg.i2c.amode = .none ∧
    (clockRises (hearing [true, true] (addressing .a7 held)) 0 ∧ (addressing .a7 held).cfg.i2c.amode = .a7) ∧
    (clockRises (hearing [true, false] (addressing .a10 held)) 0 ∧ (addressing .a10 held).cfg.i2c.amode = .a10) ∧
    (clockRises (hearing [true, true] (addressing .a10 held)) 0 ∧ (true && false) = false ∧
      answerAt (hearing [true, true] (addressing .a10 held)) 1 = true) ∧
    acksAtOnce (hearing (ackAnswers 2) (addressing .a10 held)) 2 ∧
    acksAtOnce (hearing (ackAnswers 3) (addressing .a10 held)) 3 := by
  refine ⟨rfl, ⟨?_, rfl⟩, ⟨?_, rfl⟩, ⟨?_, rfl, rfl⟩, acksAtOnce_of (by decide +kernel), acksAtOnce_of (by decide +kernel)⟩ <;>
  · unfold clockRises
    decide +kernel

theorem test_witness_I2cWritesAcknowledged :
    i2cWriteBytes (.i2cWriteCmdData 1 1 [0x00, 0xAF]) = some [0x00, 0xAF] ∧ i2cWriteBytes (.i2cWriteData 0 []) = some [] ∧
    i2cWriteBytes (.i2cWriteByte 8 []) = some [8] ∧ State.reset.i2cs.bus = .idle ∧
    acksAtOnce (hearing (ackAnswers 3) State.reset) ((writeAddress State.reset.cfg.i2c).length + 2) ∧
    acksAtOnce (addressing .none State.reset) ((writeAddress (addressing .none State.reset).cfg.i2c).length + 0) :=
  ⟨rfl, rfl, rfl, rfl, acksAtOnce_of (by decide +kernel), acksAtOnce_of (by decide +kernel)⟩

theorem test_witness_I2cWritesStopAtTheFirstFailure :
    i2cWriteBytes (.i2cWriteByte 8 []) = some [8] ∧ State.reset.i2cs.bus = .idle ∧
    wireBytes State.reset.cfg.i2c (writeAddress State.reset.cfg.i2c) [8] = [(false, 0x78)] ++ (false, 8) :: [] ∧
    acksAtOnce (hearing (ackAnswers 1 ++ [true, true]) State.reset) 1 ∧
    answerAt (hearing (ackAnswers 1 ++ [true, true]) State.reset) 2 = true ∧
    answerAt (hearing (ackAnswers 1 ++ [true, true]) State.reset) 3 = true ∧
    acksAtOnce (hearing (ackAnswers 1 ++ [false, false, false, false]) State.reset) 1 ∧
    (∀ j, j ≤ State.reset.cfg.i2c.tack.toNat →
      answerAt (hearing (ackAnswers 1 ++ [false, false, false, false]) State.reset) (2 + j) = false) :=
  ⟨rfl, rfl, rfl, acksAtOnce_of (by decide +kernel), rfl, rfl, acksAtOnce_of (by decide +kernel), by decide +kernel⟩

theorem test_witness_I2cReadsAcknowledged :
    i2cReadOperands (.i2cReadCmdData 1 2 [0x00]) = some ([0x00], 2) ∧ i2cReadOperands (.i2cReadByte []) = some ([], 1) ∧
    State.reset.i2cs.bus = .idle ∧ readRequestLength State.reset.cfg.i2c [0x00] = 3 ∧
    acksAtOnce (hearing (ackAnswers 3) State.reset) 3 :=
  ⟨rfl, rfl, rfl, rfl, acksAtOnce_of (by decide +kernel)⟩

/-- The address not acknowledged, and the address after the repeated START not acknowledged. -/
theorem test_witness_I2cReadsStopAtTheFirstNack :
    i2cReadOperands (.i2cReadCmdData 1 2 [0x00]) = some ([0x00], 2) ∧ State.reset.i2cs.bus = .idle ∧
    (readRequest State.reset.cfg.i2c [0x00]).1 = [] ++ (false, 0x78) :: [(false, 0x00)] ∧
    answerAt (hearing [true, true] State.reset) 0 = true ∧ answerAt (hearing [true, true] State.reset) 1 = true ∧
    (readRequest State.reset.cfg.i2c [0x00]).1.length = 2 ∧ (readRequest State.reset.cfg.i2c [0x00]).2 = [(false, 0x79)] ∧
    acksAtOnce (hearing (ackAnswers 2 ++ [true, true]) State.reset) 2 ∧
    answerAt (hearing (ackAnswers 2 ++ [true, true]) State.reset) 4 = true ∧
    answerAt (hearing (ackAnswers 2 ++ [true, true]) State.reset) 5 = true :=
  ⟨rfl, rfl, rfl, rfl, rfl, rfl, rfl, acksAtOnce_of (by decide +kernel), rfl, rfl⟩

theorem test_witness_ReadsOfNothingAreQuiet :
    State.reset.tws.frame = .idle ∧ State.reset.i2cs.bus = .idle ∧ ([0x42] : List Byte).length = (1 : Len).toNat := ⟨rfl, rfl, rfl⟩

theorem test_witness_I2cOperationsLeaveTheBusIdle :
    ((i2cWriteBytes (.i2cWriteData 1 [0x12])).isSome = true ∨ (i2cReadOperands (.i2cWriteData 1 [0x12])).isSome = true) ∧
    ((i2cWriteBytes (.i2cReadData 0 [])).isSome = true ∨ (i2cReadOperands (.i2cReadData 0 [])).isSome = true) ∧
    State.reset.i2cs = { bus := .idle, sda := .rel, scl := .rel } := ⟨.inl rfl, .inr rfl, rfl⟩

theorem test_witness_I2cCommandTiming :
    State.reset.cfg.i2c.amode = .a7 ∧ State.reset.i2cs.bus = .idle ∧ i2cWriteBytes (.i2cWriteByte 8 []) = some [8] ∧
    acksAtOnce (hearing (ackAnswers 2) State.reset) 2 ∧ i2cReadOperands (.i2cReadByte []) = some ([], 1) ∧
    acksAtOnce (hearing (ackAnswers 1) State.reset) 1 ∧ clockStuck (hearing [false, false, false, false] State.reset) := by
  refine ⟨rfl, rfl, rfl, acksAtOnce_of (by decide +kernel), rfl, acksAtOnce_of (by decide +kernel), ?_⟩
  unfold clockStuck
  decide +kernel

/-- A write and a read whose bytes are acknowledged, on an idle bus. -/
theorem test_witness_I2cTargetSeesTheTransaction :
    State.reset.i2cs.bus = .idle ∧
    (i2cWriteBytes (.i2cWriteByte 8 []) = some [8] ∧
      acksAtOnce (hearing (ackAnswers 2) State.reset) ((writeAddress State.reset.cfg.i2c).length + 1)) ∧
    (i2cReadOperands (.i2cReadCmdData 1 2 [0x00]) = some ([0x00], 2) ∧ readRequestLength State.reset.cfg.i2c [0x00] = 3 ∧
      acksAtOnce (hearing (ackAnswers 3) State.reset) 3) :=
  ⟨rfl, ⟨rfl, acksAtOnce_of (by decide +kernel)⟩, rfl, rfl, acksAtOnce_of (by decide +kernel)⟩

theorem bothIdle_reset : bothIdle State.reset := ⟨rfl, rfl⟩

theorem test_witness_GettersReturnTheRegisters : bothIdle State.reset := bothIdle_reset

theorem test_witness_SettersWriteTheirRegister :
    bothIdle State.reset ∧ (0x0002 : Word) = (State.reset.par.dotTable.lookup (descType State.reset.ctlr.desc, 4)).getD 0 :=
  ⟨bothIdle_reset, rfl⟩

/-- Each refused operand at the edge of its range. -/
theorem test_witness_RefusedOperands :
    bothIdle State.reset ∧ levels State.reset.par State.reset.ctlr.active ≤ (8 : Byte).toNat ∧
    State.reset.par.numTypes ≤ (4 : Byte).toNat ∧
    (([0, 1, 2, 3, 4, 5, 7] : List Byte).length = 7 ∧ ∃ b, b ∈ ([0, 1, 2, 3, 4, 5, 7] : List Byte) ∧ 6 < b.toNat) ∧
    ((List.replicate 16 (0 : Byte)).length = 2 * (8 : Len).toNat ∧ 7 < (8 : Len).toNat) ∧
    ((List.replicate 14 (0 : Byte)).length = 2 * (7 : Len).toNat ∧ (7 : Len).toNat ≤ 7 ∧ (onBackend .oledA).ctlr.active = .oledA) ∧
    (([1] : List Byte).length = (1 : Len).toNat ∧ (1 : Len).toNat ≠ State.reset.par.ddSize) ∧
    (([0, 0, 0, 0, 0] : List Byte).length = (5 : Len).toNat ∧ (5 : Len).toNat = State.reset.par.ddSize ∧
      (onBackend .lcd).ctlr.active = .lcd) ∧
    (State.reset.ctlr.active = .led ∧ ([0, 0, 0, 0] : List Byte).length = 4 + (0 : Len).toNat) ∧
    ((1 : Byte) < 2 ∧ State.reset.par.oledCols ≤ (128 : Byte).toNat ∧ State.reset.par.oledBanks ≤ (8 : Byte).toNat) ∧
    ((127 : Byte) ≤ 127 ∧ (127 : Byte).toNat < State.reset.par.oledCols ∧ (7 : Byte) ≤ 7 ∧ (7 : Byte).toNat < State.reset.par.oledBanks ∧
      (2 : Len).toNat ≠ ((127 : Byte).toNat - (127 : Byte).toNat + 1) * ((7 : Byte).toNat - (7 : Byte).toNat + 1)) :=
  ⟨bothIdle_reset, by decide +kernel⟩

theorem test_witness_DummyAcceptsEverything :
    bothIdle (onBackend .dummy) ∧ (onBackend .dummy).ctlr.active = .dummy ∧ (onBackend .dummy).par.brightCmd = [] ∧
    (7 : Byte).toNat < levels (onBackend .dummy).par .dummy ∧ (List.replicate 14 (0 : Byte)).length = 2 * (7 : Len).toNat ∧
    (5 : Len).toNat = (onBackend .dummy).par.ddSize ∧ ([0, 0, 0, 0] : List Byte).length = 4 + (0 : Len).toNat :=
  ⟨⟨rfl, rfl⟩, rfl, rfl, by decide +kernel⟩

theorem test_witness_LedBrightnessAndPower :
    bothIdle State.reset ∧ State.reset.ctlr.active = .led ∧ busOf State.reset.par .led = .tw ∧ State.reset.par.brightCmd = [] ∧
    (7 : Byte).toNat < 8 := ⟨bothIdle_reset, rfl, rfl, rfl, by decide⟩

theorem defaultCommands_reset : DefaultCommands State.reset.par := ⟨rfl, rfl, rfl, rfl⟩

theorem test_witness_I2cBrightnessAndPower :
    DefaultCommands (onBackend .lcd).par ∧ (onBackend .lcd).i2cs = i2cClosed ∧ (onBackend .lcd).tws.frame = .idle ∧
    busOf (onBackend .lcd).par .lcd = .i2c ∧ (7 : Byte).toNat < levels (onBackend .lcd).par .lcd ∧
    acksAtOnce (hearing (ackAnswers 8) (onBackend .lcd))
      (runBytes (onBackend .lcd).cfg.i2c (brightnessCmds (onBackend .lcd).par .lcd 7 true)) ∧
    acksAtOnce (hearing (ackAnswers 5) (onBackend .oledA))
      (runBytes (onBackend .oledA).cfg.i2c (brightnessCmds (onBackend .oledA).par .oledA 7 false)) :=
  ⟨defaultCommands_reset, rfl, rfl, rfl, by decide +kernel, acksAtOnce_of (by decide +kernel), acksAtOnce_of (by decide +kernel)⟩

theorem test_witness_InitAlwaysCompletes :
    bothIdle State.reset ∧ (3 : Byte).toNat < State.reset.par.numTypes :=
  ⟨bothIdle_reset, by decide⟩

theorem test_witness_InitOnLedAndDummy :
    (bothIdle State.reset ∧ State.reset.par.brightCmd = [] ∧ backendOf State.reset.par State.reset.ctlr.desc = .led ∧
      busOf State.reset.par .led = .tw) ∧
    (backendOf State.reset.par (ofKind 0x99 0 0).ctlr.desc = .dummy ∧ busOf State.reset.par .dummy ≠ .i2c) ∧
    (busOf State.reset.par (backendOf State.reset.par (ofKind 1 0x27 0).ctlr.desc) = .i2c ∧ descAddr (ofKind 1 0x27 0).ctlr.desc ≠ 0 ∧
      answerAt (hearing [true, true] (ofKind 1 0x27 0)) 0 = true ∧ answerAt (hearing [true, true] (ofKind 1 0x27 0)) 1 = true) :=
  ⟨⟨bothIdle_reset, rfl, by decide +kernel⟩, by decide +kernel⟩

/-- An LCD at 0x27: the probe, the bring-up and the brightness commands are 45 bytes. -/
theorem test_witness_I2cInitAcknowledged :
    let s := hearing (ackAnswers 45) (ofKind 1 0x27 0)
    DefaultCommands s.par ∧ s.i2cs = i2cClosed ∧ s.tws.frame = .idle ∧ backendOf s.par s.ctlr.desc = .lcd ∧ busOf s.par .lcd = .i2c ∧
    acksAtOnce s (runBytes (addressed s.par s.ctlr.desc s.cfg).i2c
      (.w [] [] :: bringUpCmds s.par .lcd s.ctlr.desc s.ctlr.bright s.ctlr.power ++
        brightnessCmds s.par .lcd s.ctlr.bright s.ctlr.power)) :=
  ⟨defaultCommands_reset, rfl, rfl, by decide +kernel, rfl, acksAtOnce_of (by decide +kernel)⟩

/-- An OLED panel of two columns and one page, its descriptor's backend and address given. -/
def smallPanel (kind : Byte) (b : Backend) : State :=
  { ofKind kind 0x3C 0 with
    ctlr := { (ofKind kind 0x3C 0).ctlr with active := b }
    par := { State.reset.par with oledCols := 2, oledBanks := 1, oledRamCols := 2, oledColOff := 0 } }

/-- The same on the small OLED panel of each revision: the bring-up, the clear and the brightness command. -/
theorem test_witness_I2cInitAcknowledged_oled :
    let a := hearing (ackAnswers 50) (smallPanel 2 .oledA)
    let b := hearing (ackAnswers 41) (smallPanel 3 .oledB)
    (DefaultCommands a.par ∧ backendOf a.par a.ctlr.desc = .oledA ∧ busOf a.par .oledA = .i2c ∧
      acksAtOnce a (runBytes (addressed a.par a.ctlr.desc a.cfg).i2c
        (.w [] [] :: bringUpCmds a.par .oledA a.ctlr.desc a.ctlr.bright a.ctlr.power ++
          brightnessCmds a.par .oledA a.ctlr.bright a.ctlr.power))) ∧
    (DefaultCommands b.par ∧ backendOf b.par b.ctlr.desc = .oledB ∧ busOf b.par .oledB = .i2c ∧
      acksAtOnce b (runBytes (addressed b.par b.ctlr.desc b.cfg).i2c
        (.w [] [] :: bringUpCmds b.par .oledB b.ctlr.desc b.ctlr.bright b.ctlr.power ++
          brightnessCmds b.par .oledB b.ctlr.bright b.ctlr.power))) :=
  ⟨⟨⟨rfl, rfl, rfl, rfl⟩, by decide +kernel, rfl, acksAtOnce_of (by decide +kernel)⟩,
    ⟨rfl, rfl, rfl, rfl⟩, by decide +kernel, rfl, acksAtOnce_of (by decide +kernel)⟩

theorem test_witness_LedFramesOverTw :
    bothIdle State.reset ∧ State.reset.ctlr.active = .led ∧ busOf State.reset.par .led = .tw ∧ ([1, 2, 3, 4, 5, 6, 7] : List Word).length ≤ 7 ∧
    ([] : List Word).length ≤ 7 ∧ ([0, 0, 0, 0, 0] : List Byte).length = (5 : Len).toNat ∧ (5 : Len).toNat = State.reset.par.ddSize :=
  ⟨bothIdle_reset, by decide +kernel⟩

/-- On the LCD the colon alone; on an LED on I2C a frame whose commands the parameter gives. -/
theorem test_witness_I2cFramesAcknowledged :
    DefaultCommands (onBackend .lcd).par ∧ (onBackend .lcd).i2cs = i2cClosed ∧ (onBackend .lcd).tws.frame = .idle ∧
    (onBackend .lcd).ctlr.active = .lcd ∧ busOf (onBackend .lcd).par .lcd = .i2c ∧ ([2] : List Word).length ≤ 7 ∧
    acksAtOnce (hearing (ackAnswers 12) (onBackend .lcd)) (runBytes (onBackend .lcd).cfg.i2c
      (lcdByteCmds (onBackend .lcd).par 8 0 0x82 ++ lcdByteCmds (onBackend .lcd).par 8 1 0x3A)) ∧
    (∀ w : Frame,
      let s : State := { State.reset with par := { State.reset.par with bus := [(.led, .i2c)], ledI2cEmit := [(w, [.w [0xC0] [1]])] } }
      s.ctlr.active = .led ∧ busOf s.par .led = .i2c ∧ ledI2cEmit s.par w = [.w [0xC0] [1]] ∧
        runBytes s.cfg.i2c [.w [0xC0] [1]] = 3) ∧
    acksAtOnce (hearing (ackAnswers 3) State.reset) 3 := by
  refine ⟨defaultCommands_reset, rfl, rfl, rfl, rfl, by decide, acksAtOnce_of (by decide +kernel), fun w => ⟨rfl, rfl, ?_, rfl⟩,
    acksAtOnce_of (by decide +kernel)⟩
  simp [ledI2cEmit]

theorem test_witness_ReadRawReadsTheTarget :
    DefaultCommands State.reset.par ∧ (State.reset.ctlr.active = .led ∧ busOf State.reset.par .led = .tw ∧ bothIdle State.reset) ∧
    State.reset.tws.dir = .input ∧ (1 : Len) ≠ 0 ∧ busOf (onBackend .oledA).par .oledA = .i2c ∧
    readRequestLength (onBackend .oledA).cfg.i2c [] = 1 ∧ acksAtOnce (hearing (ackAnswers 1) (onBackend .oledA)) 1 :=
  ⟨defaultCommands_reset, ⟨rfl, rfl, bothIdle_reset⟩, rfl, by decide, rfl, rfl, acksAtOnce_of (by decide +kernel)⟩

theorem test_witness_RegisterWritesSurviveBusFailures :
    bothIdle State.reset ∧ (7 : Byte).toNat < levels State.reset.par .led ∧ ([1, 2, 3, 4, 5, 6, 7] : List Word).length ≤ 7 ∧
    (onBackend .lcd).ctlr.active = .lcd ∧ ([0, 0, 0, 0, 0] : List Byte).length = (5 : Len).toNat ∧
    (5 : Len).toNat = State.reset.par.ddSize ∧ (onBackend .oledB).ctlr.active = .oledB ∧
    ((127 : Byte) ≤ 127 ∧ (127 : Byte).toNat < State.reset.par.oledCols ∧ (7 : Byte) ≤ 7 ∧ (7 : Byte).toNat < State.reset.par.oledBanks ∧
      ([9] : List Byte).length = (1 : Len).toNat ∧
      (1 : Len).toNat = ((127 : Byte).toNat - (127 : Byte).toNat + 1) * ((7 : Byte).toNat - (7 : Byte).toNat + 1)) :=
  ⟨bothIdle_reset, by decide +kernel⟩

theorem test_witness_LedControllerTiming :
    bothIdle State.reset ∧ State.reset.par.brightCmd = [] ∧ State.reset.ctlr.active = .led ∧
    backendOf State.reset.par State.reset.ctlr.desc = .led ∧ busOf State.reset.par .led = .tw ∧
    ([1, 0] : List Byte).length = 2 * (1 : Len).toNat ∧ ([0, 0, 0, 0, 0] : List Byte).length = (5 : Len).toNat ∧
    (5 : Len).toNat = State.reset.par.ddSize ∧ (7 : Byte).toNat < 8 := ⟨bothIdle_reset, by decide +kernel⟩

/-- A command, a one-byte window at the last column and page, and a clear of the small panel of each revision. -/
theorem test_witness_OledPortAcknowledged :
    (onBackend .oledA).i2cs = i2cClosed ∧ (onBackend .oledA).tws.frame = .idle ∧ (onBackend .oledA).ctlr.active = .oledA ∧
    busOf (onBackend .oledA).par .oledA = .i2c ∧
    acksAtOnce (hearing (ackAnswers 3) (onBackend .oledA)) (runBytes (onBackend .oledA).cfg.i2c [.w [0x00] [0xAF]]) ∧
    ((127 : Byte) ≤ 127 ∧ (127 : Byte).toNat < State.reset.par.oledCols ∧ (7 : Byte) ≤ 7 ∧ (7 : Byte).toNat < State.reset.par.oledBanks ∧
      (1 : Len).toNat = ((127 : Byte).toNat - (127 : Byte).toNat + 1) * ((7 : Byte).toNat - (7 : Byte).toNat + 1)) ∧
    acksAtOnce (hearing (ackAnswers 11) (onBackend .oledA))
      (runBytes (onBackend .oledA).cfg.i2c [.w [0x00] [0x21, 127, 127, 0x22, 7, 7], .w [0x40] [9]]) ∧
    acksAtOnce (hearing (ackAnswers 8) (onBackend .oledB))
      (runBytes (onBackend .oledB).cfg.i2c [.w [0x00] [0xB7, 1, 0x18], .w [0x40] [9]]) ∧
    (smallPanel 2 .oledA).i2cs = i2cClosed ∧ (smallPanel 2 .oledA).ctlr.active = .oledA ∧
    (smallPanel 3 .oledB).i2cs = i2cClosed ∧ (smallPanel 3 .oledB).ctlr.active = .oledB ∧
    busOf (smallPanel 3 .oledB).par .oledB = .i2c ∧
    acksAtOnce (hearing (ackAnswers 12) (smallPanel 2 .oledA)) (runBytes (smallPanel 2 .oledA).cfg.i2c
      [.w [0x00] [0x21, 0x00, byteOfNat ((smallPanel 2 .oledA).par.oledCols - 1), 0x22, 0x00,
          byteOfNat ((smallPanel 2 .oledA).par.oledBanks - 1)],
        .w [0x40] (List.replicate ((smallPanel 2 .oledA).par.oledCols * (smallPanel 2 .oledA).par.oledBanks) 0)]) ∧
    acksAtOnce (hearing (ackAnswers 9) (smallPanel 3 .oledB)) (runBytes (smallPanel 3 .oledB).cfg.i2c
      ((List.range (smallPanel 3 .oledB).par.oledBanks).flatMap (fun page =>
        [.w [0x00] [0xB0 ||| byteOfNat page, 0x00, 0x10],
          .w [0x40] (List.replicate (smallPanel 3 .oledB).par.oledRamCols 0)]))) :=
  ⟨rfl, rfl, rfl, rfl, acksAtOnce_of (by decide +kernel), by decide +kernel, acksAtOnce_of (by decide +kernel),
    acksAtOnce_of (by decide +kernel), rfl, rfl, rfl, rfl, rfl, acksAtOnce_of (by decide +kernel),
    acksAtOnce_of (by decide +kernel)⟩

/-- The last entry that names a slot, and a slot no entry names. -/
theorem test_witness_ScatterPutsWordsInTheirSlots :
    let o : Seven (Fin 7) := ⟨0, 0, 1, 2, 3, 4, 5⟩
    (∀ j : Fin 7, (1 : Fin 7) < j → o.get j ≠ o.get 1) ∧ (∀ i : Fin 7, o.get i ≠ 6) := by decide +kernel

theorem test_witness_TransposedLayoutGathersSegments :
    let o : Seven (Fin 7) := ⟨0, 0, 1, 2, 3, 4, 5⟩
    (∀ k : Fin 7, (6 : Fin 7) < k → o.get k ≠ o.get 6) ∧ (∀ i : Fin 7, o.get i ≠ 6) := by decide +kernel

theorem test_witness_TransposedLayoutIsInvertible :
    let o : Seven (Fin 7) := ⟨6, 5, 4, 3, 2, 1, 0⟩
    ∀ i j : Fin 7, o.get i = o.get j → i = j := by decide +kernel

theorem test_witness_GlyphsAndClockFrames :
    (23 : BitVec 5).toNat ≤ 23 ∧ (59 : BitVec 6).toNat ≤ 59 ∧ 23 < (24 : BitVec 5).toNat ∧ 59 < (60 : BitVec 6).toNat := by decide

/-- The colon of type 0 is in the indicator word, so the digit NARROW_COLON_POS names gets bit 7. -/
theorem test_witness_NarrowAndMuxLayouts :
    let l : Frame := ⟨0x0002, 1, 2, 3, 4, 5, 6⟩
    (⟨0, 1, 0x0082, 3, 4, 5, 0⟩ : Frame) = Seven.ofFn (fun i =>
      if i = 0 ∨ i = 6 then 0
      else if l.a0 &&& dotMask State.reset iconColon ≠ 0 ∧ i.val = State.reset.par.narrowColon.val + 1 then l.get i ||| 0x0080
      else l.get i) := by decide +kernel

end Sys2Proof.Tests
end

section
/-! PROOFS, family 30_encoding.md. The mask and match test of the opcode table is the decoder's own test (R121): UNIT:OP picks
at most one row, and on that row the masked operand bits are exactly the MBZ bits the decoder checks. -/

namespace Sys2Proof

/-! A word and its fields. -/

theorem fieldsOfWord_injective : Function.Injective fieldsOfWord := by
  intro x y h
  obtain ⟨hop, hla, hlb⟩ := Fields.mk.inj h
  have parts (w : BitVec 32) :
      w.toNat = 2 ^ 24 * (w.extractLsb' 24 8).toNat + 2 ^ 12 * (w.extractLsb' 12 12).toNat + (w.extractLsb' 0 12).toNat := by
    simp only [BitVec.extractLsb'_toNat, Nat.shiftRight_eq_div_pow]
    omega
  apply BitVec.eq_of_toNat_eq
  rw [parts x, parts y, hop, hla, hlb]

theorem fieldsOfWord_and (x y : BitVec 32) :
    fieldsOfWord (x &&& y) =
      ⟨(fieldsOfWord x).op &&& (fieldsOfWord y).op, (fieldsOfWord x).la &&& (fieldsOfWord y).la,
        (fieldsOfWord x).lb &&& (fieldsOfWord y).lb⟩ := by
  simp [fieldsOfWord, BitVec.extractLsb'_and]

/-- The bits from `k` up are zero exactly when the mask of those bits finds nothing. -/
theorem extractLsb'_high_eq_zero_iff {w k n : Nat} (x : BitVec w) (h : k + n = w) :
    x.extractLsb' k n = 0 ↔ x &&& BitVec.allOnes w <<< k = 0 := by
  constructor
  · intro hx
    ext j hj
    by_cases hk : j < k
    · simp [hk]
    · have bit := congrArg (fun y => y.getLsbD (j - k)) hx
      have low : j - k < n := by omega
      have back : k + (j - k) = j := by omega
      have zero : x[j] = false := by simpa [low, back, BitVec.getLsbD_eq_getElem hj] using bit
      simp [zero]
  · intro hx
    ext j hj
    have inside : k + j < w := by omega
    have bit := congrArg (fun y => y.getLsbD (k + j)) hx
    have used : j < w := by omega
    simpa [inside, used, BitVec.getLsbD_eq_getElem inside] using bit

/-! The rows of the table. -/

/-- UNIT:OP of a row. -/
def OpcodeRow.op (r : OpcodeRow) : Byte := (fieldsOfWord r.pattern).op

/-- The operand fields have no bit under the row's mask. -/
def OpcodeRow.operandsClear (r : OpcodeRow) (la lb : Len) : Bool :=
  decide (la &&& (fieldsOfWord r.mask).la = 0 ∧ lb &&& (fieldsOfWord r.mask).lb = 0)

/-- Every row's pattern is its UNIT:OP alone, and every mask holds the whole of UNIT:OP. -/
theorem opcodeRows_form : ∀ r ∈ opcodeRows, fieldsOfWord r.pattern = ⟨r.op, 0, 0⟩ ∧ (fieldsOfWord r.mask).op = 0xFF#8 := by
  decide +kernel

theorem opcodeRows_mnemonic_nodup : (opcodeRows.map OpcodeRow.mnemonic).Nodup := by decide +kernel

theorem row_eq_of_mnemonic_eq {r q : OpcodeRow} (hr : r ∈ opcodeRows) (hq : q ∈ opcodeRows)
    (h : r.mnemonic = q.mnemonic) : r = q :=
  List.inj_on_of_nodup_map opcodeRows_mnemonic_nodup hr hq h

theorem covers_iff {r : OpcodeRow} (hr : r ∈ opcodeRows) (cw : BitVec 32) :
    r.covers cw = true ↔
      (fieldsOfWord cw).op = r.op ∧ r.operandsClear (fieldsOfWord cw).la (fieldsOfWord cw).lb = true := by
  obtain ⟨hpattern, hmask⟩ := opcodeRows_form r hr
  have ones : (fieldsOfWord cw).op &&& 0xFF#8 = (fieldsOfWord cw).op := BitVec.and_allOnes
  rw [OpcodeRow.covers, decide_eq_true_iff, ← fieldsOfWord_injective.eq_iff, fieldsOfWord_and, hpattern, hmask, ones,
    Fields.mk.injEq, OpcodeRow.operandsClear, decide_eq_true_iff]

/-! The operand forms: each form's MBZ test is the test under the mask its rows have. -/

theorem whenZero_eq_ok_iff {b : Bool} {i j : Instr} : whenZero b i = .ok j ↔ b = true ∧ i = j := by
  cases b <;> simp [whenZero]

theorem whenZero_congr {p q : Prop} [Decidable p] [Decidable q] (h : p ↔ q) (i : Instr) :
    whenZero (decide p) i = whenZero (decide q) i := by
  rw [decide_eq_decide.2 h]

theorem masked_none (x : Len) : x &&& 0x000#12 = 0 := BitVec.and_zero

theorem masked_all (x : Len) : x = 0 ↔ x &&& 0xFFF#12 = 0 := by
  rw [show x &&& 0xFFF#12 = x from BitVec.and_allOnes]

theorem freeOperands_masked (la lb : Len) : True ↔ la &&& 0x000#12 = 0 ∧ lb &&& 0x000#12 = 0 :=
  (iff_true_intro ⟨masked_none la, masked_none lb⟩).symm

theorem lengthOperand_masked (la lb : Len) : la = 0 ↔ la &&& 0xFFF#12 = 0 ∧ lb &&& 0x000#12 = 0 :=
  (masked_all la).trans (and_iff_left (masked_none lb)).symm

theorem noOperand_masked (la lb : Len) : la = 0 ∧ lb = 0 ↔ la &&& 0xFFF#12 = 0 ∧ lb &&& 0xFFF#12 = 0 :=
  and_congr (masked_all la) (masked_all lb)

theorem byteOperand_masked (la lb : Len) :
    la = 0 ∧ lb.extractLsb' 8 4 = 0 ↔ la &&& 0xFFF#12 = 0 ∧ lb &&& 0xF00#12 = 0 :=
  and_congr (masked_all la) (extractLsb'_high_eq_zero_iff lb rfl)

theorem bitOperand_masked (la lb : Len) :
    la = 0 ∧ lb.extractLsb' 1 11 = 0 ↔ la &&& 0xFFF#12 = 0 ∧ lb &&& 0xFFE#12 = 0 :=
  and_congr (masked_all la) (extractLsb'_high_eq_zero_iff lb rfl)

theorem addrOperand_masked (la lb : Len) :
    la = 0 ∧ lb.extractLsb' 2 10 = 0 ↔ la &&& 0xFFF#12 = 0 ∧ lb &&& 0xFFC#12 = 0 :=
  and_congr (masked_all la) (extractLsb'_high_eq_zero_iff lb rfl)

theorem iconOperand_masked (la lb : Len) :
    la.extractLsb' 4 8 = 0 ∧ lb.extractLsb' 1 11 = 0 ↔ la &&& 0xFF0#12 = 0 ∧ lb &&& 0xFFE#12 = 0 :=
  and_congr (extractLsb'_high_eq_zero_iff la rfl) (extractLsb'_high_eq_zero_iff lb rfl)

theorem clockOperand_masked (la lb : Len) :
    lb.extractLsb' 6 6 = 0 ↔ la &&& 0x000#12 = 0 ∧ lb &&& 0xFC0#12 = 0 :=
  (extractLsb'_high_eq_zero_iff lb rfl).trans (and_iff_right (masked_none la)).symm

/-! The decoder on the rows. -/

/-- On the UNIT:OP of the row the decoder answers an instruction of that row when the operand bits under its mask are zero, and
an error when one of them is not. -/
def OpcodeRow.DecodesUnderMask (r : OpcodeRow) : Prop :=
  ∀ (la lb : Len) (txp : List Byte),
    ∃ i, decodeFields ⟨r.op, la, lb⟩ txp = whenZero (r.operandsClear la lb) i ∧ i.mnemonic = r.mnemonic

theorem i2cRows_decode : ∀ r ∈ i2cRows, r.DecodesUnderMask := by
  simp only [i2cRows, List.forall_mem_cons, List.not_mem_nil, false_implies, implies_true, and_true]
  exact ⟨
    fun la lb txp => ⟨.i2cReadCmdData la lb txp, whenZero_congr (freeOperands_masked la lb) _, rfl⟩,
    fun la lb txp => ⟨.i2cReadData lb txp, whenZero_congr (lengthOperand_masked la lb) _, rfl⟩,
    fun la lb txp => ⟨.i2cReadByte txp, whenZero_congr (noOperand_masked la lb) _, rfl⟩,
    fun la lb txp => ⟨.i2cWriteCmdData la lb txp, whenZero_congr (freeOperands_masked la lb) _, rfl⟩,
    fun la lb txp => ⟨.i2cWriteData lb txp, whenZero_congr (lengthOperand_masked la lb) _, rfl⟩,
    fun la lb txp => ⟨.i2cWriteByte (lb.extractLsb' 0 8) txp, whenZero_congr (byteOperand_masked la lb) _, rfl⟩,
    fun la lb txp => ⟨.i2cStart txp, whenZero_congr (noOperand_masked la lb) _, rfl⟩,
    fun la lb txp => ⟨.i2cStop txp, whenZero_congr (noOperand_masked la lb) _, rfl⟩,
    fun la lb txp => ⟨.i2cTxBit (lb.getLsbD 0) txp, whenZero_congr (bitOperand_masked la lb) _, rfl⟩,
    fun la lb txp => ⟨.i2cRxBit txp, whenZero_congr (noOperand_masked la lb) _, rfl⟩,
    fun la lb txp => ⟨.i2cAckPoll txp, whenZero_congr (noOperand_masked la lb) _, rfl⟩,
    fun la lb txp => ⟨.i2cTxByte (lb.extractLsb' 0 8) txp, whenZero_congr (byteOperand_masked la lb) _, rfl⟩,
    fun la lb txp => ⟨.i2cRxByte (lb.getLsbD 0) txp, whenZero_congr (bitOperand_masked la lb) _, rfl⟩,
    fun la lb txp => ⟨.i2cAddr (lb.getLsbD 1) (lb.getLsbD 0) txp, whenZero_congr (addrOperand_masked la lb) _, rfl⟩⟩

theorem twRows_decode : ∀ r ∈ twRows, r.DecodesUnderMask := by
  simp only [twRows, List.forall_mem_cons, List.not_mem_nil, false_implies, implies_true, and_true]
  exact ⟨
    fun la lb txp => ⟨.twReadCmdData la lb txp, whenZero_congr (freeOperands_masked la lb) _, rfl⟩,
    fun la lb txp => ⟨.twReadData lb txp, whenZero_congr (lengthOperand_masked la lb) _, rfl⟩,
    fun la lb txp => ⟨.twReadByte txp, whenZero_congr (noOperand_masked la lb) _, rfl⟩,
    fun la lb txp => ⟨.twWriteCmdData la lb txp, whenZero_congr (freeOperands_masked la lb) _, rfl⟩,
    fun la lb txp => ⟨.twWriteData lb txp, whenZero_congr (lengthOperand_masked la lb) _, rfl⟩,
    fun la lb txp => ⟨.twWriteByte (lb.extractLsb' 0 8) txp, whenZero_congr (byteOperand_masked la lb) _, rfl⟩,
    fun la lb txp => ⟨.twBegin txp, whenZero_congr (noOperand_masked la lb) _, rfl⟩,
    fun la lb txp => ⟨.twEnd txp, whenZero_congr (noOperand_masked la lb) _, rfl⟩,
    fun la lb txp => ⟨.twTxBit (lb.getLsbD 0) txp, whenZero_congr (bitOperand_masked la lb) _, rfl⟩,
    fun la lb txp => ⟨.twRxBit txp, whenZero_congr (noOperand_masked la lb) _, rfl⟩,
    fun la lb txp => ⟨.twTxByte (lb.extractLsb' 0 8) txp, whenZero_congr (byteOperand_masked la lb) _, rfl⟩,
    fun la lb txp => ⟨.twRxByte txp, whenZero_congr (noOperand_masked la lb) _, rfl⟩⟩

theorem ctlRows_decode : ∀ r ∈ ctlRows, r.DecodesUnderMask := by
  simp only [ctlRows, List.forall_mem_cons, List.not_mem_nil, false_implies, implies_true, and_true]
  exact ⟨
    fun la lb txp => ⟨.ctlInit txp, whenZero_congr (noOperand_masked la lb) _, rfl⟩,
    fun la lb txp => ⟨.ctlGetBrightness txp, whenZero_congr (noOperand_masked la lb) _, rfl⟩,
    fun la lb txp => ⟨.ctlSetBrightness (lb.extractLsb' 0 8) txp, whenZero_congr (byteOperand_masked la lb) _, rfl⟩,
    fun la lb txp => ⟨.ctlGetPower txp, whenZero_congr (noOperand_masked la lb) _, rfl⟩,
    fun la lb txp => ⟨.ctlSetPower (lb.getLsbD 0) txp, whenZero_congr (bitOperand_masked la lb) _, rfl⟩,
    fun la lb txp => ⟨.ctlGetDescriptor txp, whenZero_congr (noOperand_masked la lb) _, rfl⟩,
    fun la lb txp => ⟨.ctlSetDescriptor txp, whenZero_congr (noOperand_masked la lb) _, rfl⟩,
    fun la lb txp => ⟨.ctlSetIcon (la.extractLsb' 0 4) (lb.getLsbD 0) txp, whenZero_congr (iconOperand_masked la lb) _, rfl⟩,
    fun la lb txp => ⟨.ctlReadRaw lb txp, whenZero_congr (lengthOperand_masked la lb) _, rfl⟩,
    fun la lb txp => ⟨.ctlWriteRaw lb txp, whenZero_congr (lengthOperand_masked la lb) _, rfl⟩,
    fun la lb txp => ⟨.ctlWriteDisplayFrame lb txp, whenZero_congr (lengthOperand_masked la lb) _, rfl⟩,
    fun la lb txp => ⟨.ctlSetOrder txp, whenZero_congr (noOperand_masked la lb) _, rfl⟩,
    fun la lb txp => ⟨.ctlSetIndicatorMask txp, whenZero_congr (noOperand_masked la lb) _, rfl⟩,
    fun la lb txp => ⟨.ctlGetMode txp, whenZero_congr (noOperand_masked la lb) _, rfl⟩,
    fun la lb txp => ⟨.ctlSetMode (lb.extractLsb' 0 8) txp, whenZero_congr (byteOperand_masked la lb) _, rfl⟩,
    fun la lb txp => ⟨.ctlReloadDefaults txp, whenZero_congr (noOperand_masked la lb) _, rfl⟩⟩

theorem dpRows_decode : ∀ r ∈ dpRows, r.DecodesUnderMask := by
  simp only [dpRows, List.forall_mem_cons, List.not_mem_nil, false_implies, implies_true, and_true]
  exact ⟨
    fun la lb txp => ⟨.dpTranspose8 txp, whenZero_congr (noOperand_masked la lb) _, rfl⟩,
    fun la lb txp => ⟨.dpScatter txp, whenZero_congr (noOperand_masked la lb) _, rfl⟩,
    fun la lb txp => ⟨.dpXfDirect txp, whenZero_congr (noOperand_masked la lb) _, rfl⟩,
    fun la lb txp => ⟨.dpXfTransposed txp, whenZero_congr (noOperand_masked la lb) _, rfl⟩,
    fun la lb txp => ⟨.dpXfNarrow5 txp, whenZero_congr (noOperand_masked la lb) _, rfl⟩,
    fun la lb txp => ⟨.dpXfMuxext txp, whenZero_congr (noOperand_masked la lb) _, rfl⟩,
    fun la lb txp => ⟨.dpCharToMask (lb.extractLsb' 0 8) txp, whenZero_congr (byteOperand_masked la lb) _, rfl⟩,
    fun la lb txp => ⟨.dpLedClock (la.extractLsb' 6 6) (la.getLsbD 5) (la.extractLsb' 0 5) (lb.extractLsb' 0 6) txp,
      whenZero_congr (clockOperand_masked la lb) _, rfl⟩⟩

theorem oledRows_decode : ∀ r ∈ oledRows, r.DecodesUnderMask := by
  simp only [oledRows, List.forall_mem_cons, List.not_mem_nil, false_implies, implies_true, and_true]
  exact ⟨
    fun la lb txp => ⟨.oledCmd lb txp, whenZero_congr (lengthOperand_masked la lb) _, rfl⟩,
    fun la lb txp => ⟨.oledData lb txp, whenZero_congr (lengthOperand_masked la lb) _, rfl⟩,
    fun la lb txp => ⟨.oledWindow lb txp, whenZero_congr (lengthOperand_masked la lb) _, rfl⟩,
    fun la lb txp => ⟨.oledClear txp, whenZero_congr (noOperand_masked la lb) _, rfl⟩⟩

theorem miscRows_decode : ∀ r ∈ miscRows, r.DecodesUnderMask := by
  simp only [miscRows, List.forall_mem_cons, List.not_mem_nil, false_implies, implies_true, and_true]
  exact fun la lb txp => ⟨.miscGetVersion txp, whenZero_congr (noOperand_masked la lb) _, rfl⟩

theorem opcodeRows_decode {r : OpcodeRow} (hr : r ∈ opcodeRows) : r.DecodesUnderMask := by
  simp only [opcodeRows, List.mem_append, or_assoc] at hr
  obtain h | h | h | h | h | h := hr
  · exact i2cRows_decode r h
  · exact twRows_decode r h
  · exact ctlRows_decode r h
  · exact dpRows_decode r h
  · exact oledRows_decode r h
  · exact miscRows_decode r h

/-- The decoder's arms are the rows of the table: on any other UNIT:OP it answers an error. -/
theorem row_of_op_or_decode_error (f : Fields) (txp : List Byte) :
    (∃ r ∈ opcodeRows, r.op = f.op) ∨ ∃ e, decodeFields f txp = .error e := by
  unfold decodeFields
  split
  case h_56 => exact .inr ⟨_, rfl⟩
  all_goals
    next hop => exact .inl (by rw [hop]; decide +kernel)

/-- A word the mask and match test gives to a row decodes to an instruction of that row. -/
theorem decode_ok_of_covers {r : OpcodeRow} {c : Command} (hr : r ∈ opcodeRows) (h : r.covers c.cw = true) :
    ∃ i, decode c = .ok i ∧ i.mnemonic = r.mnemonic := by
  obtain ⟨hop, hclear⟩ := (covers_iff hr c.cw).1 h
  obtain ⟨i, hi, hname⟩ := opcodeRows_decode hr (fieldsOfWord c.cw).la (fieldsOfWord c.cw).lb c.txp
  rw [← hop] at hi
  exact ⟨i, hi.trans (whenZero_eq_ok_iff.2 ⟨hclear, rfl⟩), hname⟩

/-- A word that decodes passes the mask and match test of its instruction's row. -/
theorem covers_of_decode_ok {c : Command} {i : Instr} (h : decode c = .ok i) :
    ∃ r ∈ opcodeRows, r.covers c.cw = true ∧ i.mnemonic = r.mnemonic := by
  obtain ⟨r, hr, hop⟩ | ⟨e, he⟩ := row_of_op_or_decode_error (fieldsOfWord c.cw) c.txp
  · obtain ⟨j, hj, hname⟩ := opcodeRows_decode hr (fieldsOfWord c.cw).la (fieldsOfWord c.cw).lb c.txp
    rw [hop] at hj
    obtain ⟨hclear, rfl⟩ := whenZero_eq_ok_iff.1 (hj.symm.trans h)
    exact ⟨r, hr, (covers_iff hr c.cw).2 ⟨hop.symm, hclear⟩, hname⟩
  · exact absurd (he.symm.trans h) (by simp)

theorem covers_iff_decode {r : OpcodeRow} (hr : r ∈ opcodeRows) (c : Command) :
    r.covers c.cw = true ↔ ∃ i, decode c = .ok i ∧ i.mnemonic = r.mnemonic := by
  constructor
  · exact decode_ok_of_covers hr
  · rintro ⟨i, hi, hname⟩
    obtain ⟨q, hq, hcovers, hqname⟩ := covers_of_decode_ok hi
    rwa [row_eq_of_mnemonic_eq hr hq (hname.symm.trans hqname)]

theorem uncovered_iff_decode_error (c : Command) :
    (∀ r, r ∈ opcodeRows → r.covers c.cw = false) ↔ ∃ e, decode c = .error e := by
  constructor
  · intro uncovered
    cases hd : decode c with
    | error e => exact ⟨e, rfl⟩
    | ok i =>
      obtain ⟨r, hr, hcovers, -⟩ := covers_of_decode_ok hd
      simp [uncovered r hr] at hcovers
  · rintro ⟨e, he⟩ r hr
    rw [← Bool.not_eq_true]
    intro hcovers
    obtain ⟨i, hi, -⟩ := decode_ok_of_covers hr hcovers
    simp [he] at hi

/-- Settles O4: on the one row a word's UNIT:OP can name, the mask and match test is the decoder's MBZ test. -/
theorem maskAndMatchSelectTheRow : Obligations.MaskAndMatchSelectTheRow :=
  ⟨fun c _ hr => covers_iff_decode hr c, uncovered_iff_decode_error⟩

end Sys2Proof
end

section
/-! PROOFS, family 40_threewire.md. The events and the shortest duration of a strobe frame, from those of its bits (R163): every
count is additive over the parts of a frame, so each part is counted once. -/

namespace Sys2Proof.Machine

/-! Counting events and phases. -/

/-- `es` is `n` events that take `p` phases of `d` at the shortest (R163). -/
def Measures (d n p : Nat) (es : List Event) : Prop := es.length = n ∧ duration es = d * p

theorem Measures.of_eq {d n p m q : Nat} {es : List Event} (h : Measures d n p es) (events : n = m) (phases : p = q) :
    Measures d m q es := by
  rwa [← events, ← phases]

theorem Measures.append {d n p m q : Nat} {a b : List Event} (ha : Measures d n p a) (hb : Measures d m q b) :
    Measures d (n + m) (p + q) (a ++ b) := by
  obtain ⟨lengthA, durationA⟩ := ha
  obtain ⟨lengthB, durationB⟩ := hb
  exact ⟨by simp [lengthA, lengthB], by simp [durationA, durationB, Nat.mul_add]⟩

/-- Parts that measure the same add up. -/
theorem Measures.flatMap {α : Type} {d n p : Nat} {f : α → List Event} (h : ∀ x, Measures d n p (f x)) (l : List α) :
    Measures d (n * l.length) (p * l.length) (l.flatMap f) := by
  induction l with
  | nil => exact ⟨rfl, rfl⟩
  | cons x l ih =>
    rw [List.flatMap_cons, List.length_cons]
    exact ((h x).append ih).of_eq (by ring) (by ring)

/-! The parts of a frame. -/

theorem twOpenEvents_measures (d : Nat) : Measures d 2 1 (twOpenEvents d) := ⟨rfl, by simp [twOpenEvents]⟩

theorem twCloseEvents_measures (d : Nat) : Measures d 3 1 (twCloseEvents d) := ⟨rfl, by simp [twCloseEvents]⟩

theorem twTurnEvents_measures (d : Nat) : Measures d 2 1 (twTurnEvents d) := ⟨rfl, by simp [twTurnEvents]⟩

theorem twBitEvents_measures (d : Nat) (b : Bool) : Measures d 5 2 (twBitEvents d b) :=
  ⟨rfl, by simp [twBitEvents, Nat.mul_two]⟩

theorem twSampleEvents_measures (d : Nat) (v : Bool) : Measures d 5 2 (twSampleEvents d v) :=
  ⟨rfl, by simp [twSampleEvents, Nat.mul_two]⟩

theorem twByteEvents_measures (d : Nat) (x : Byte) : Measures d 40 16 (twByteEvents d x) :=
  .flatMap (twBitEvents_measures d) (bitsLow x)

theorem twReadEvents_measures (d n : Nat) (f : Nat → Bool) : Measures d (40 * n) (16 * n) (twReadEvents d n f) := by
  have byte (j : Nat) : Measures d 40 16 ((List.range 8).flatMap fun i => twSampleEvents d (f (8 * j + i))) :=
    .flatMap (fun i => twSampleEvents_measures d (f (8 * j + i))) (List.range 8)
  have bytes := Measures.flatMap byte (List.range n)
  rwa [List.length_range] at bytes

/-- A frame that sends `bs` (R152, R163). -/
theorem twFrameEvents_measures (d : Nat) (bs : List Byte) :
    Measures d (5 + 40 * bs.length) (2 + 16 * bs.length) (twFrameEvents d bs) := by
  have whole := ((twOpenEvents_measures d).append (.flatMap (twByteEvents_measures d) bs)).append (twCloseEvents_measures d)
  exact whole.of_eq (by omega) (by omega)

/-- The turn of the line in a read frame: only where command bytes were sent (R149, R163). -/
theorem twReadTurn_measures (d : Nat) (cs : List Byte) :
    Measures d (if 0 < cs.length then 2 else 0) (if 0 < cs.length then 1 else 0)
      (if cs.isEmpty then [] else twTurnEvents d) := by
  cases cs with
  | nil => exact ⟨rfl, rfl⟩
  | cons c cs => exact twTurnEvents_measures d

/-- A frame that sends `cs` and reads `n` bytes (R149, R163). -/
theorem twReadFrameEvents_measures (d : Nat) (cs : List Byte) (n : Nat) (f : Nat → Bool) :
    Measures d (5 + 40 * cs.length + 40 * n + (if 0 < cs.length then 2 else 0))
      (2 + 16 * cs.length + 16 * n + (if 0 < cs.length then 1 else 0)) (twReadFrameEvents d cs n f) := by
  have whole := ((((twOpenEvents_measures d).append (.flatMap (twByteEvents_measures d) cs)).append
    (twReadTurn_measures d cs)).append (twReadEvents_measures d n f)).append (twCloseEvents_measures d)
  exact whole.of_eq (by omega) (by omega)

/-! The frame of each operation. -/

/-- The events of a capability operation that sends `cs` and receives `r` bytes: a write's frame where it receives none (R149,
R152). -/
def twOperationEvents (d : Nat) (cs : List Byte) (r : Nat) (f : Nat → Bool) : List Event :=
  if r = 0 then twFrameEvents d cs else twReadFrameEvents d cs r f

/-- The count and the duration of R163. -/
theorem twOperationEvents_measures (d : Nat) (cs : List Byte) (r : Nat) (f : Nat → Bool) :
    Measures d (5 + 40 * cs.length + 40 * r + (if 0 < cs.length ∧ 0 < r then 2 else 0))
      (2 + 16 * cs.length + 16 * r + (if 0 < cs.length ∧ 0 < r then 1 else 0)) (twOperationEvents d cs r f) := by
  cases r with
  | zero => simpa [twOperationEvents] using twFrameEvents_measures d cs
  | succ r => simpa [twOperationEvents] using twReadFrameEvents_measures d cs (r + 1) f

/-- A TW write with its bus free and its payload complete appends its frame to the trace (R152, R162). -/
theorem twWrite_trace {s : State} {need : Nat} {txp : List Byte} (bs : List Byte) (idle : s.tws.frame = .idle)
    (length : txp.length = need) :
    ∃ t, twCapability need txp (fun u => finish .ok (twWrite bs u)) s = .next t ∧
      t.trace = s.trace ++ twOperationEvents (d3 s) bs 0 (answerAt s) := by
  rw [twCapability, command_runs ((twIdle_iff s).2 idle) length, twWrite_eq]
  exact ⟨_, rfl, withEvents_trace _ s⟩

/-- A TW read of at least one byte, with its bus free and its payload complete, appends its frame to the trace (R149, R162). -/
theorem twRead_trace {s : State} {need n : Nat} {txp : List Byte} (cs : List Byte) (inv : Inv s) (idle : s.tws.frame = .idle)
    (length : txp.length = need) (positive : 0 < n) :
    ∃ t, twCapability need txp (fun u => finishTwRead (twRead cs n u)) s = .next t ∧
      t.trace = s.trace ++ twOperationEvents (d3 s) cs n (answerAt s) := by
  obtain ⟨dir, -⟩ := inv.tw_idle idle
  rw [twCapability, command_runs ((twIdle_iff s).2 idle) length, twRead_eq cs n (begin s) positive dir, twOperationEvents,
    if_neg positive.ne']
  exact ⟨_, rfl, withEvents_trace _ s⟩

/-- What every TW capability operation appends to the trace: one frame that sends its bytes and receives as many as it counts
(R149 to R154, R163). -/
theorem exec_trace_of_twCounts {i : Instr} {s : State} {k r : Nat} (inv : Inv s) (idle : s.tws.frame = .idle)
    (formed : i.WellFormed) (counts : twCounts i = some (k, r)) :
    (twSentBytes i).length = k ∧ ∃ t, exec i s = .next t ∧
      t.trace = s.trace ++ twOperationEvents (d3 s) (twSentBytes i) r (answerAt s) := by
  have length : i.txp.length = i.payloadLength := of_decide_eq_true formed
  cases i with
  | twReadCmdData m n txp =>
    obtain ⟨nonzero, rfl, rfl⟩ : n ≠ 0 ∧ m.toNat = k ∧ n.toNat = r := by simpa [twCounts] using counts
    exact ⟨length, twRead_trace txp inv idle length (BitVec.toNat_pos_of_ne_zero nonzero)⟩
  | twReadData n txp =>
    obtain ⟨nonzero, rfl, rfl⟩ : n ≠ 0 ∧ 0 = k ∧ n.toNat = r := by simpa [twCounts] using counts
    obtain rfl : txp = [] := List.eq_nil_of_length_eq_zero length
    exact ⟨rfl, twRead_trace [] inv idle length (BitVec.toNat_pos_of_ne_zero nonzero)⟩
  | twReadByte txp =>
    obtain ⟨rfl, rfl⟩ : 0 = k ∧ 1 = r := by simpa [twCounts] using counts
    obtain rfl : txp = [] := List.eq_nil_of_length_eq_zero length
    exact ⟨rfl, twRead_trace [] inv idle length Nat.one_pos⟩
  | twWriteCmdData m n txp =>
    obtain ⟨rfl, rfl⟩ : m.toNat + n.toNat = k ∧ 0 = r := by simpa [twCounts] using counts
    exact ⟨length, twWrite_trace txp idle length⟩
  | twWriteData n txp =>
    obtain ⟨rfl, rfl⟩ : n.toNat = k ∧ 0 = r := by simpa [twCounts] using counts
    exact ⟨length, twWrite_trace txp idle length⟩
  | twWriteByte b txp =>
    obtain ⟨rfl, rfl⟩ : 1 = k ∧ 0 = r := by simpa [twCounts] using counts
    exact ⟨rfl, twWrite_trace [b] idle length⟩
  | _ => simp [twCounts] at counts

/-- Settles O25: the operation's one frame measures what R163 says. -/
theorem twTraceLengthAndDuration : Obligations.TwTraceLengthAndDuration := by
  intro i s k r inv idle formed counts
  obtain ⟨rfl, t, next, trace⟩ := exec_trace_of_twCounts inv idle formed counts
  exact ⟨t, _, next, trace, twOperationEvents_measures (d3 s) (twSentBytes i) r (answerAt s)⟩

end Sys2Proof.Machine
end

section
/-! PROOFS, family 42_controller.md. INIT repeated from its own last state, with the same answers, ends there again (R259). The two
runs go side by side: at every point they agree on all but the working registers of the engines and RC, and each working register of
the second run either agrees too or still holds what the first run left at its end. A bus step writes the same value in both runs or
leaves the register alone, so this is kept; at the end both readings are the first run's last state. -/

namespace Sys2Proof.Machine

/-! Two runs side by side. -/

/-- `s` with other working registers: those of the datapath and of the engines, and RC. -/
def withWorking (dp : Datapath) (i2cs : I2cState) (tws : TwState) (rc : RC) (s : State) : State :=
  { s with dp := dp, i2cs := i2cs, tws := tws, status := { s.status with rc := rc } }

/-- What a register of the repeated run holds: the value of the first run at the same point, or still its last value. -/
def Settles {α : Type} (last first again : α) : Prop := again = first ∨ again = last

theorem Settles.same {α : Type} {last first : α} : Settles last first first := .inl rfl

theorem Settles.kept {α : Type} {last first : α} : Settles last first last := .inr rfl

theorem Settles.done {α : Type} {last again : α} (h : Settles last last again) : again = last := h.elim id id

/-- SR, BITCNT, BYTECNT and TMOCNT, each on its own. -/
structure DpSettles (last first again : Datapath) : Prop where
  sr : Settles last.sr first.sr again.sr
  bitcnt : Settles last.bitcnt first.bitcnt again.bitcnt
  bytecnt : Settles last.bytecnt first.bytecnt again.bytecnt
  tmocnt : Settles last.tmocnt first.tmocnt again.tmocnt

/-- The registers of the I2C engine, each on its own. -/
structure I2cSettles (last first again : I2cState) : Prop where
  bus : Settles last.bus first.bus again.bus
  sda : Settles last.sda first.sda again.sda
  scl : Settles last.scl first.scl again.scl

/-- The registers of the TW engine, each on its own. -/
structure TwSettles (last first again : TwState) : Prop where
  frame : Settles last.frame first.frame again.frame
  dir : Settles last.dir first.dir again.dir
  bitcnt : Settles last.bitcnt first.bitcnt again.bitcnt
  stb : Settles last.stb first.stb again.stb
  clk : Settles last.clk first.clk again.clk
  dio : Settles last.dio first.dio again.dio

theorem DpSettles.same {last first : Datapath} : DpSettles last first first := ⟨.same, .same, .same, .same⟩

theorem DpSettles.kept {last first : Datapath} : DpSettles last first last := ⟨.kept, .kept, .kept, .kept⟩

theorem I2cSettles.same {last first : I2cState} : I2cSettles last first first := ⟨.same, .same, .same⟩

theorem I2cSettles.kept {last first : I2cState} : I2cSettles last first last := ⟨.kept, .kept, .kept⟩

theorem TwSettles.same {last first : TwState} : TwSettles last first first := ⟨.same, .same, .same, .same, .same, .same⟩

theorem TwSettles.kept {last first : TwState} : TwSettles last first last := ⟨.kept, .kept, .kept, .kept, .kept, .kept⟩

theorem DpSettles.done {last again : Datapath} (h : DpSettles last last again) : again = last := by
  cases again; cases last
  exact (Datapath.mk.injEq ..).mpr ⟨h.sr.done, h.bitcnt.done, h.bytecnt.done, h.tmocnt.done⟩

theorem I2cSettles.done {last again : I2cState} (h : I2cSettles last last again) : again = last := by
  cases again; cases last
  exact (I2cState.mk.injEq ..).mpr ⟨h.bus.done, h.sda.done, h.scl.done⟩

theorem TwSettles.done {last again : TwState} (h : TwSettles last last again) : again = last := by
  cases again; cases last
  exact (TwState.mk.injEq ..).mpr ⟨h.frame.done, h.dir.done, h.bitcnt.done, h.stb.done, h.clk.done, h.dio.done⟩

/-- Bytes sent leave the same SR and BITCNT, and count up from the same BYTECNT (R146). -/
theorem DpSettles.sent {last first again : Datapath} (h : DpSettles last first again) (count : again.bytecnt = first.bytecnt)
    (n : Nat) : DpSettles last (dpAfterSent n first) (dpAfterSent n again) := by
  cases n with
  | zero => exact h
  | succ n => exact ⟨.same, .same, .inl (congrArg (· + BitVec.ofNat 12 (n + 1)) count), h.tmocnt⟩

theorem dpAfterSent_bytecnt (n : Nat) (dp : Datapath) : (dpAfterSent n dp).bytecnt = dp.bytecnt + BitVec.ofNat 12 n := by
  cases n with
  | zero => simp
  | succ n => rfl

/-- A frame leaves the same lines; CLK only where it sent a byte (R143, R144). -/
theorem TwSettles.closed {last first again : TwState} (h : TwSettles last first again) (n : Nat) :
    TwSettles last (twClosed n first) (twClosed n again) := by
  refine ⟨.same, .same, .same, .same, ?_, .same⟩
  cases n with
  | zero => exact h.clk
  | succ n => exact .same

/-- The point `again` of a repeated run and the same point `first` of the run it repeats, whose last state is `last`. Where
`counting` holds, BYTECNT is counted from the same value in both. -/
structure Repeats (counting : Prop) (last first again : State) : Prop where
  alike : again = withWorking again.dp again.i2cs again.tws again.status.rc first
  dp : DpSettles last.dp first.dp again.dp
  i2cs : I2cSettles last.i2cs first.i2cs again.i2cs
  tws : TwSettles last.tws first.tws again.tws
  count : counting → again.dp.bytecnt = first.dp.bytecnt

/-- Two procedures that answer the same, in states that go side by side. -/
structure AnswerAlike (counting : Prop) (last : State) (a b : Bool × State) : Prop where
  answer : b.1 = a.1
  state : Repeats counting last a.2 b.2

section sideBySide

variable {c k : Prop} {last x y : State}

theorem Repeats.exists_eq (h : Repeats c last x y) : ∃ dp i2cs tws rc, y = withWorking dp i2cs tws rc x :=
  ⟨_, _, _, _, h.alike⟩

theorem Repeats.mono (h : Repeats c last x y) (imp : k → c) : Repeats k last x y :=
  ⟨h.alike, h.dp, h.i2cs, h.tws, fun hk => h.count (imp hk)⟩

theorem Repeats.par (h : Repeats c last x y) : y.par = x.par := by
  obtain ⟨_, _, _, _, rfl⟩ := h.exists_eq
  rfl

theorem Repeats.ctlr (h : Repeats c last x y) : y.ctlr = x.ctlr := by
  obtain ⟨_, _, _, _, rfl⟩ := h.exists_eq
  rfl

theorem Repeats.cfg (h : Repeats c last x y) : y.cfg = x.cfg := by
  obtain ⟨_, _, _, _, rfl⟩ := h.exists_eq
  rfl

/-- Where the first run has ended, the repeated one has ended in the same state, but for RC. -/
theorem Repeats.finished_eq (h : Repeats c last last y) (rc : RC) : finished rc y = finished rc last := by
  rw [h.alike, h.dp.done, h.i2cs.done, h.tws.done]
  rfl

theorem AnswerAlike.mono {a b : Bool × State} (h : AnswerAlike c last a b) (imp : k → c) : AnswerAlike k last a b :=
  ⟨h.answer, h.state.mono imp⟩

/-- A procedure and the one that follows it, whose answers are joined. -/
theorem AnswerAlike.and {a b a' b' : Bool × State} (h : AnswerAlike c last a b) (h' : AnswerAlike c last a' b') :
    AnswerAlike c last (a.1 && a'.1, a'.2) (b.1 && b'.1, b'.2) := ⟨congrArg₂ Bool.and h.answer h'.answer, h'.state⟩

/-! The I2C engine. -/

theorem clearByteCount_repeats (h : Repeats c last x y) : Repeats True last (clearByteCount x) (clearByteCount y) := by
  obtain ⟨dp, i2cs, tws, rc, rfl⟩ := h.exists_eq
  exact ⟨rfl, ⟨h.dp.sr, h.dp.bitcnt, .same, h.dp.tmocnt⟩, h.i2cs, h.tws, fun _ => rfl⟩

theorem clearAcked_repeats (h : Repeats c last x y) : Repeats c last (clearAcked x) (clearAcked y) := by
  obtain ⟨dp, i2cs, tws, rc, rfl⟩ := h.exists_eq
  exact ⟨rfl, h.dp, h.i2cs, h.tws, h.count⟩

theorem i2cStart_repeats (h : Repeats c last x y) : Repeats c last (i2cStart x) (i2cStart y) := by
  obtain ⟨dp, i2cs, tws, rc, rfl⟩ := h.exists_eq
  rw [i2cStart_eq, i2cStart_eq]
  exact ⟨rfl, h.dp, .same, h.tws, h.count⟩

theorem i2cStop_repeats (h : Repeats c last x y) : Repeats c last (i2cStop x) (i2cStop y) := by
  obtain ⟨dp, i2cs, tws, rc, rfl⟩ := h.exists_eq
  rw [i2cStop_eq, i2cStop_eq]
  exact ⟨rfl, h.dp, .same, h.tws, h.count⟩

/-- A byte sent over I2C overwrites SR, BITCNT and TMOCNT, whether its poll samples an acknowledge or times out (R188, R189). -/
theorem i2cTxOrdered_repeats (lsb : Bool) (b : Byte) (h : Repeats True last x y) :
    AnswerAlike True last (i2cTxOrdered lsb b x) (i2cTxOrdered lsb b y) := by
  have count : y.dp.bytecnt + 1 = x.dp.bytecnt + 1 := congrArg (· + 1) (h.count trivial)
  obtain ⟨dp, i2cs, tws, rc, rfl⟩ := h.exists_eq
  rcases clockRises_or_stuck x with ⟨w, rises⟩ | stuck
  · rw [i2cTxOrdered_sampled lsb b w x rises, i2cTxOrdered_sampled lsb b w (withWorking dp i2cs tws rc x) rises]
    exact ⟨rfl, rfl, ⟨.same, .same, .inl count, .same⟩, ⟨h.i2cs.bus, .same, .same⟩, h.tws, fun _ => count⟩
  · rw [i2cTxOrdered_stuck lsb b x stuck, i2cTxOrdered_stuck lsb b (withWorking dp i2cs tws rc x) stuck]
    exact ⟨rfl, rfl, ⟨.same, .same, .inl count, .same⟩, ⟨h.i2cs.bus, .same, .same⟩, h.tws, fun _ => count⟩

theorem ifAcked_alike {a b : Bool × State} {f : State → Bool × State} (h : AnswerAlike c last a b)
    (hf : ∀ {u v : State}, Repeats c last u v → AnswerAlike c last (f u) (f v)) :
    AnswerAlike c last (ifAcked a f) (ifAcked b f) := by
  unfold ifAcked
  rw [h.answer]
  split
  · exact h
  · exact hf h.state

theorem i2cSend_repeats (ws : List (Bool × Byte)) (h : Repeats True last x y) :
    AnswerAlike True last (i2cSend ws x) (i2cSend ws y) := by
  induction ws generalizing x y with
  | nil => exact ⟨rfl, h⟩
  | cons w ws ih => exact ifAcked_alike (i2cTxOrdered_repeats w.1 w.2 h) ih

theorem i2cWrite_repeats (bs : List Byte) (h : Repeats c last x y) : AnswerAlike True last (i2cWrite bs x) (i2cWrite bs y) := by
  have sent := i2cSend_repeats (wireBytes x.cfg.i2c (writeAddress x.cfg.i2c) bs) (i2cStart_repeats (clearByteCount_repeats h))
  rw [i2cWrite_send, i2cWrite_send, h.cfg]
  exact ⟨congrArg Bool.not sent.answer, i2cStop_repeats sent.state⟩

/-! The TW engine. -/

theorem twWriteFrame_repeats (bs : List Byte) (h : Repeats c last x y) (counting : c) :
    Repeats c last (twWriteFrame bs x) (twWriteFrame bs y) := by
  have count := h.count counting
  have sent := h.dp.sent count bs.length
  have lines := h.tws.closed bs.length
  obtain ⟨dp, i2cs, tws, rc, rfl⟩ := h.exists_eq
  rw [twWriteFrame_eq, twWriteFrame_eq]
  refine ⟨rfl, sent, h.i2cs, lines, fun _ => ?_⟩
  exact (dpAfterSent_bytecnt _ _).trans ((congrArg (· + BitVec.ofNat 12 bs.length) count).trans (dpAfterSent_bytecnt _ _).symm)

/-- The idle TW bus re-established (R346). -/
theorem ledLines_eq (s : State) :
    ledLines s = withEvents [.set .stb true, .set .clk true, .setInput .dio, .delay (d3 s)]
      { s with tws := { s.tws with stb := .driven true, clk := .driven true, dio := .input, dir := .input } } := rfl

theorem ledLines_repeats (h : Repeats c last x y) : Repeats c last (ledLines x) (ledLines y) := by
  obtain ⟨dp, i2cs, tws, rc, rfl⟩ := h.exists_eq
  rw [ledLines_eq, ledLines_eq]
  exact ⟨rfl, h.dp, h.i2cs, ⟨h.tws.frame, .same, h.tws.bitcnt, .same, .same, .same⟩, h.count⟩

/-! Bus commands. -/

theorem delay_repeats (n : Nat) (h : Repeats c last x y) : Repeats c last (delay n x) (delay n y) := by
  obtain ⟨dp, i2cs, tws, rc, rfl⟩ := h.exists_eq
  exact ⟨rfl, h.dp, h.i2cs, h.tws, h.count⟩

/-- A bus write keeps two runs side by side: over TW it needs BYTECNT counted from the same value, over I2C it sets it (R345). -/
theorem busWrite_repeats (cs ds : List Byte) (h : Repeats c last x y) (counting : busOf x.par x.ctlr.active = .tw → c) :
    AnswerAlike c last (busWrite cs ds x) (busWrite cs ds y) := by
  unfold busWrite
  rw [h.par, h.ctlr]
  cases bus : busOf x.par x.ctlr.active with
  | tw => exact ⟨rfl, twWriteFrame_repeats (cs ++ ds) h (counting bus)⟩
  | i2c => exact (i2cWrite_repeats (cs ++ ds) (clearAcked_repeats h)).mono fun _ => trivial
  | none => exact ⟨rfl, h⟩

theorem run_repeats (cmds : List Cmd) (h : Repeats c last x y) (counting : busOf x.par x.ctlr.active = .tw → c) :
    AnswerAlike c last (run cmds x) (run cmds y) := by
  induction cmds generalizing x y with
  | nil => exact ⟨rfl, h⟩
  | cons cmd cmds ih =>
    cases cmd with
    | w cs ds =>
      have first := busWrite_repeats cs ds h counting
      have effect := (busWrite_steps cs ds x).effect
      have rest := ih first.state (by rwa [effect.par, effect.ctlr])
      exact first.and rest
    | d n => exact ih (delay_repeats n h) counting

/-! The parts of INIT. -/

/-- What INIT does before its first bus step: ACTIVE and I2CCFG as the descriptor says (R241, R344). -/
def initHead (s : State) : State := applyAddress (setActive (backendOf s.par s.ctlr.desc) s)

theorem initHead_eq (s : State) :
    initHead s = { s with
      ctlr := { s.ctlr with active := backendOf s.par s.ctlr.desc }
      cfg := addressed s.par s.ctlr.desc s.cfg } := by
  by_cases h : busOf s.par (backendOf s.par s.ctlr.desc) = .i2c ∧ descAddr s.ctlr.desc ≠ 0
  · rw [addressed, if_pos h]
    exact if_pos h
  · rw [addressed, if_neg h]
    exact if_neg h

theorem addressed_addressed (p : Params) (desc : BitVec 32) (cfg : EngineCfg) :
    addressed p desc (addressed p desc cfg) = addressed p desc cfg := by
  unfold addressed
  split <;> rfl

theorem probeTarget_repeats (h : Repeats False last x y) : Repeats False last (probeTarget x) (probeTarget y) := by
  unfold probeTarget
  rw [h.par, h.ctlr]
  split
  next bus =>
    have probed := busWrite_repeats [] [] h (by simp [bus])
    have state := probed.state
    simp only [probe, probed.answer, state.ctlr]
    obtain ⟨dp, i2cs, tws, rc, eq⟩ := state.exists_eq
    rw [eq] at state ⊢
    exact ⟨rfl, state.dp, state.i2cs, state.tws, state.count⟩
  next => exact h

/-- BYTECNT starts at 0 where the bring-up goes over TW (R241, R259). -/
theorem startByteCount_repeats (h : Repeats False last x y) :
    Repeats (busOf x.par x.ctlr.active = .tw) last (startByteCount x) (startByteCount y) := by
  unfold startByteCount
  rw [h.par, h.ctlr]
  split
  next => exact (clearByteCount_repeats h).mono fun _ => trivial
  next other => exact h.mono other

theorem backendInit_repeats (h : Repeats c last x y) (counting : busOf x.par x.ctlr.active = .tw → c) :
    AnswerAlike c last (backendInit x) (backendInit y) := by
  unfold backendInit ledInitTw
  rw [h.par, h.ctlr]
  cases active : x.ctlr.active with
  | led =>
    cases busOf x.par .led with
    | tw =>
      have lines := ledLines_repeats h
      exact run_repeats _ lines counting
    | i2c => exact run_repeats _ h counting
    | none => exact ⟨rfl, h⟩
  | lcd => exact run_repeats _ h counting
  | oledA => exact run_repeats _ h counting
  | oledB => exact run_repeats _ h counting
  | dummy => exact ⟨rfl, h⟩

theorem sendBrightness_repeats (h : Repeats c last x y) (counting : busOf x.par x.ctlr.active = .tw → c) :
    AnswerAlike c last (sendBrightness x) (sendBrightness y) := by
  unfold sendBrightness
  rw [h.par, h.ctlr]
  exact run_repeats _ h counting

/-- The state INIT's bring-up starts from: the target probed, and BYTECNT set for TW (R241). -/
def initProbed (s : State) : State := startByteCount (probeTarget (initHead s))

theorem initBody_eq (s : State) :
    initBody s = ((backendInit (initProbed s)).1 && (sendBrightness (backendInit (initProbed s)).2).1,
      (sendBrightness (backendInit (initProbed s)).2).2) := rfl

theorem initProbed_effect (s : State) : Effect busEvent (probeTarget (initHead s)) (initProbed s) := (startByteCount_steps _).effect

theorem initProbed_repeats (h : Repeats False last (initHead x) (initHead y)) :
    Repeats (busOf (initProbed x).par (initProbed x).ctlr.active = .tw) last (initProbed x) (initProbed y) := by
  rw [(initProbed_effect x).par, (initProbed_effect x).ctlr]
  exact startByteCount_repeats (probeTarget_repeats h)

/-- The whole of INIT keeps two runs side by side, once its head has brought them together. -/
theorem initBody_repeats (h : Repeats False last (initHead x) (initHead y)) :
    ∃ c, AnswerAlike c last (initBody x) (initBody y) := by
  have up := backendInit_repeats (initProbed_repeats h) id
  have effect := (backendInit_steps (initProbed x)).effect
  have sent := sendBrightness_repeats up.state (by rw [effect.par, effect.ctlr]; exact id)
  rw [initBody_eq, initBody_eq]
  exact ⟨_, up.and sent⟩

end sideBySide

/-! What INIT leaves. -/

theorem probeTarget_cfg (s : State) : (probeTarget s).cfg = s.cfg := by
  unfold probeTarget
  split
  · exact (busWrite_steps [] [] s).effect.cfg
  · rfl

/-- INIT leaves I2CCFG as its head made it (R241, R344). -/
theorem initBody_cfg (s : State) : (initBody s).2.cfg = addressed s.par s.ctlr.desc s.cfg := by
  rw [initBody_eq, (sendBrightness_steps _).effect.cfg, (backendInit_steps _).effect.cfg,
    (initProbed_effect s).cfg, probeTarget_cfg, initHead_eq]

/-- Two runs of INIT that go side by side end in one state, where the first one is the run that `last` ends. -/
theorem finishAck_initBody_eq {x y : State} (h : Repeats False (initBody x).2 (initHead x) (initHead y)) :
    finishAck (initBody y) = finishAck (initBody x) := by
  obtain ⟨c, ends⟩ := initBody_repeats h
  rw [finishAck, finishAck, finish_eq, finish_eq, ends.answer, ends.state.finished_eq]

/-- RC has no part in INIT. -/
theorem initHead_repeats_status (s : State) (st : Status) (last : State) :
    Repeats False last (initHead (begin s)) (initHead (begin { s with status := st })) := by
  rw [initHead_eq, initHead_eq]
  exact ⟨rfl, .same, .same, .same, False.elim⟩

/-- INIT's head brings the state INIT left together with the one it began in (R241). -/
theorem initHead_repeats_finished (s : State) (rc : RC) :
    Repeats False (initBody (begin s)).2 (initHead (begin s))
      (initHead (begin { finished rc (initBody (begin s)).2 with env := s.env })) := by
  have steps := initBody_steps (begin s)
  have par : (initBody (begin s)).2.par = s.par := steps.par
  have cfg : (initBody (begin s)).2.cfg = addressed s.par s.ctlr.desc s.cfg := initBody_cfg (begin s)
  have ctlr : (initBody (begin s)).2.ctlr = { s.ctlr with active := (initBody (begin s)).2.ctlr.active } := steps.ctlr
  have wbuf : (initBody (begin s)).2.wbuf = s.wbuf := steps.wbuf
  have refused : (initBody (begin s)).2.refused = s.refused := steps.refused
  clear steps
  generalize (initBody (begin s)).2 = last at *
  rw [initHead_eq, initHead_eq]
  have desc : last.ctlr.desc = s.ctlr.desc := by rw [ctlr]
  have active : { last.ctlr with active := backendOf last.par last.ctlr.desc } =
      { s.ctlr with active := backendOf s.par s.ctlr.desc } := by rw [par, ctlr]
  have address : addressed last.par last.ctlr.desc last.cfg = addressed s.par s.ctlr.desc s.cfg := by
    rw [par, desc, cfg, addressed_addressed]
  exact ⟨State.eq_of_fields rfl rfl rfl rfl rfl address active wbuf rfl refused rfl par,
    .kept, .kept, .kept, False.elim⟩

theorem exec_ctlInit (txp : List Byte) (s : State) :
    exec (.ctlInit txp) s = controller 0 txp (fun u => finishAck (initBody u)) s := by
  rfl

theorem enginesIdle_iff (s : State) : (i2cIdle s && twIdle s) = true ↔ bothIdle s := by simp [bothIdle]

/-- CTL.INIT turned away, where an engine is busy (R261). -/
theorem exec_ctlInit_busy {s : State} (busy : ¬ bothIdle s) : exec (.ctlInit []) s = .next (rejected .seq s) :=
  (exec_ctlInit [] s).trans (command_seq (Bool.eq_false_iff.mpr (mt (enginesIdle_iff s).mp busy)))

/-- CTL.INIT past its checks (R241). -/
theorem exec_ctlInit_idle {s : State} (idle : bothIdle s) : exec (.ctlInit []) s = finishAck (initBody (begin s)) :=
  (exec_ctlInit [] s).trans (command_runs ((enginesIdle_iff s).mpr idle) rfl)

/-- `s` with both engines at rest. -/
def atRest (s : State) : State :=
  { s with i2cs := i2cClosed, tws := { s.tws with frame := .idle, dir := .input, bitcnt := 0, dio := .input } }

/-- INIT leaves both engines idle where it found them so: beside a run from rest, whose end is at rest, each engine is as that run
leaves it or as it was (R182, R451). -/
theorem bothIdle_initBody {s : State} (idle : bothIdle s) : bothIdle (initBody s).2 := by
  obtain ⟨bus, frame⟩ := idle
  have head : Repeats False s (initHead (atRest s)) (initHead s) := by
    rw [initHead_eq, initHead_eq]
    exact ⟨rfl, .same, .kept, .kept, False.elim⟩
  obtain ⟨c, ends⟩ := initBody_repeats head
  obtain ⟨closed, opened, -⟩ := (initBody_steps (atRest s)).rested ⟨rfl, rfl, rfl, rfl, rfl⟩
  have busAtRest : (initBody (atRest s)).2.i2cs.bus = .idle := congrArg I2cState.bus closed
  exact ⟨ends.state.i2cs.bus.elim (·.trans busAtRest) (·.trans bus), ends.state.tws.frame.elim (·.trans opened) (·.trans frame)⟩

theorem bothIdle.finished {s : State} (idle : bothIdle s) (rc : RC) (env : Env) :
    bothIdle { Machine.finished rc s with env := env } := idle

/-- INIT in a state whose head goes beside the head of another run ends as that run does. -/
theorem exec_ctlInit_beside {x y : State} (idle : bothIdle y)
    (h : Repeats False (initBody (begin x)).2 (initHead (begin x)) (initHead (begin y))) :
    exec (.ctlInit []) y = finishAck (initBody (begin x)) :=
  (exec_ctlInit_idle idle).trans (finishAck_initBody_eq h)

/-- INIT does not depend on STATUS (R259). -/
theorem exec_ctlInit_status (s : State) (st : Status) : exec (.ctlInit []) { s with status := st } = exec (.ctlInit []) s := by
  by_cases idle : bothIdle s
  · rw [exec_ctlInit_idle idle]
    exact exec_ctlInit_beside idle (initHead_repeats_status s st _)
  · rw [exec_ctlInit_busy idle]
    exact exec_ctlInit_busy idle

/-- INIT run again with the same answers leaves the state it left (R259). -/
theorem exec_ctlInit_again {s t : State} (h : exec (.ctlInit []) s = .next t) :
    exec (.ctlInit []) { t with env := s.env } = .next t := by
  by_cases idle : bothIdle s
  · have idleAfter : bothIdle (initBody (begin s)).2 := bothIdle_initBody idle
    have beside := initHead_repeats_finished s (ackCode (initBody (begin s)).1)
    rw [exec_ctlInit_idle idle, finishAck, finish_eq] at h
    injection h with left
    have idleAgain : bothIdle { t with env := s.env } := by
      rw [← left]
      exact idleAfter.finished _ s.env
    rw [left] at beside
    rw [exec_ctlInit_beside idleAgain beside, finishAck, finish_eq, left]
  · rw [exec_ctlInit_busy idle] at h
    injection h with left
    subst left
    exact exec_ctlInit_busy idle

/-- Settles O19, by running INIT beside itself. -/
theorem initIsIdempotent : Obligations.InitIsIdempotent :=
  ⟨exec_ctlInit_status, fun _ _ => exec_ctlInit_again⟩

end Sys2Proof.Machine
end

section
/-! PROOFS, family 43_layout.md. The layouts are permutations of bits: a scatter is read back slot by slot, the 8×8 transpose bit by
bit, and each XOR-swap pass as an exchange of bit positions. -/

namespace Sys2Proof

/-! Rows of seven and of eight, entry by entry. -/

@[simp] theorem Seven.get_ofFn {α : Type} (f : Fin 7 → α) (i : Fin 7) : (Seven.ofFn f).get i = f i := by
  match i with
  | 0 | 1 | 2 | 3 | 4 | 5 | 6 => rfl

@[simp] theorem Seven.get_map {α β : Type} (f : α → β) (v : Seven α) (i : Fin 7) : (v.map f).get i = f (v.get i) := by
  match i with
  | 0 | 1 | 2 | 3 | 4 | 5 | 6 => rfl

@[simp] theorem Seven.get_replicate {α : Type} (x : α) (i : Fin 7) : (Seven.replicate x).get i = x := by
  match i with
  | 0 | 1 | 2 | 3 | 4 | 5 | 6 => rfl

theorem Seven.get_set {α : Type} (v : Seven α) (i k : Fin 7) (x : α) : (v.set i x).get k = if k = i then x else v.get k := by
  match i with
  | 0 | 1 | 2 | 3 | 4 | 5 | 6 =>
    match k with
    | 0 | 1 | 2 | 3 | 4 | 5 | 6 => rfl

@[simp] theorem Seven.get_set_self {α : Type} (v : Seven α) (i : Fin 7) (x : α) : (v.set i x).get i = x := by
  rw [Seven.get_set, if_pos rfl]

theorem Seven.get_set_of_ne {α : Type} (v : Seven α) {i k : Fin 7} (x : α) (h : i ≠ k) : (v.set i x).get k = v.get k := by
  rw [Seven.get_set, if_neg h.symm]

theorem Seven.ofFn_get {α : Type} (v : Seven α) : Seven.ofFn v.get = v := rfl

theorem Seven.eq_of_get {α : Type} {v w : Seven α} (h : ∀ i, v.get i = w.get i) : v = w := by
  rw [← v.ofFn_get, ← w.ofFn_get, funext h]

@[simp] theorem Eight.get_ofFn {α : Type} (f : Fin 8 → α) (i : Fin 8) : (Eight.ofFn f).get i = f i := by
  match i with
  | 0 | 1 | 2 | 3 | 4 | 5 | 6 | 7 => rfl

theorem Eight.ofFn_get {α : Type} (v : Eight α) : Eight.ofFn v.get = v := rfl

theorem Eight.eq_of_get {α : Type} {v w : Eight α} (h : ∀ i, v.get i = w.get i) : v = w := by
  rw [← v.ofFn_get, ← w.ofFn_get, funext h]

/-- Two blocks with equal bits are equal. -/
theorem Block.eq_of_bits {a b : Block} (h : ∀ r c : Fin 8, (a.get r).getLsbD c.val = (b.get r).getLsbD c.val) : a = b :=
  Eight.eq_of_get fun r => BitVec.eq_of_getLsbD_eq fun c hc => h r ⟨c, hc⟩

namespace Machine

/-! Payloads read back, and the answer of a datapath command. -/

@[simp] theorem txpBlock_toList (b : Block) : txpBlock b.toList = b := rfl

theorem word_of_bytes (w : Word) : (highByte w).setWidth 16 <<< 8 ||| (lowByte w).setWidth 16 = w := by
  ext i hi
  by_cases low : i < 8
  · simp [lowByte, highByte, low, BitVec.getLsbD_eq_getElem hi]
  · have high : i - 8 < 8 ∧ 8 + (i - 8) = i := by omega
    simp [lowByte, highByte, low, high, BitVec.getLsbD_eq_getElem hi]

@[simp] theorem txpFrame_frameBytes (l : Frame) : txpFrame (frameBytes l) = l := by
  apply Seven.eq_of_get
  intro k
  rw [txpFrame, Seven.get_ofFn]
  match k with
  | 0 | 1 | 2 | 3 | 4 | 5 | 6 => exact word_of_bytes _

/-- A datapath command answers in any bus state, and leaves nothing but its answer (43_layout.md section 5, R405). -/
theorem datapath_answers (need : Nat) (txp : List Byte) (bytes : State → List Byte) (s : State) (length : txp.length = need) :
    datapath need txp (fun u => finish .ok (emitAll (bytes u) u)) s = .next (answered .ok (bytes (begin s)) s) :=
  command_runs rfl length

theorem exec_dpTranspose8 (s : State) (b : Block) :
    exec (.dpTranspose8 b.toList) s = .next (answered .ok (transpose8 b).toList s) :=
  datapath_answers 8 b.toList (fun _ => (transpose8 (txpBlock b.toList)).toList) s rfl

/-- A datapath command that lays out a frame (R324 to R328). -/
theorem datapath_answers_frame (layout : State → Frame → Frame) (l : Frame) (s : State) :
    datapath 14 (frameBytes l) (fun u => finishFrame (layout u (txpFrame (frameBytes l))) u) s =
      .next (answered .ok (frameBytes (layout (begin s) l)) s) := by
  rw [txpFrame_frameBytes]
  exact datapath_answers 14 (frameBytes l) (fun u => frameBytes (layout u l)) s (frameBytes_length l)

theorem exec_dpScatter (s : State) (l : Frame) :
    exec (.dpScatter (frameBytes l)) s = .next (answered .ok (frameBytes (scatter l s.ctlr.order)) s) :=
  datapath_answers_frame (fun u l => scatter l u.ctlr.order) l s

theorem exec_dpXfDirect (s : State) (l : Frame) :
    exec (.dpXfDirect (frameBytes l)) s = .next (answered .ok (frameBytes (scatter l s.ctlr.order)) s) :=
  datapath_answers_frame (fun u l => xfDirect l u.ctlr.order) l s

theorem exec_dpXfTransposed (s : State) (l : Frame) :
    exec (.dpXfTransposed (frameBytes l)) s = .next (answered .ok (frameBytes (xfTransposed l s.ctlr.order)) s) :=
  datapath_answers_frame (fun u l => xfTransposed l u.ctlr.order) l s

theorem exec_dpXfNarrow5 (s : State) (l : Frame) :
    exec (.dpXfNarrow5 (frameBytes l)) s = .next (answered .ok (frameBytes (narrowOn s l s.ctlr.order)) s) :=
  datapath_answers_frame (fun u l => narrowOn u l u.ctlr.order) l s

theorem exec_dpXfMuxext (s : State) (l : Frame) :
    exec (.dpXfMuxext (frameBytes l)) s = .next (answered .ok (frameBytes (xfMuxext l s.ctlr.order)) s) :=
  datapath_answers_frame (fun u l => xfMuxext l u.ctlr.order) l s

/-! The transpose, bit by bit. -/

theorem boolByte_getLsbD (b : Bool) (i : Nat) : (boolByte b).getLsbD i = (decide (i = 0) && b) := by
  cases b <;> simp [boolByte]

theorem byteOfBits_getLsbD (f : Fin 8 → Bool) (i : Fin 8) : (byteOfBits f).getLsbD i.val = f i := by
  match i with
  | 0 | 1 | 2 | 3 | 4 | 5 | 6 | 7 =>
    simp [byteOfBits, boolByte_getLsbD, -BitVec.getLsbD_eq_getElem]

theorem transpose8_getLsbD (b : Block) (r c : Fin 8) : ((transpose8 b).get r).getLsbD c.val = (b.get c).getLsbD r.val := by
  rw [transpose8, Eight.get_ofFn, byteOfBits_getLsbD]

theorem transpose8_transpose8 (b : Block) : transpose8 (transpose8 b) = b :=
  Block.eq_of_bits fun r c => by rw [transpose8_getLsbD, transpose8_getLsbD]

/-! The transpose by XOR-swap passes (R321): a pass exchanges bit positions, and three passes exchange rows and columns. -/

/-- Where the bit at position `i` comes from in a swap pass: the masked positions exchange with those `k` above. -/
def swapSource (k : Nat) (mask : BitVec 64) (i : Nat) : Nat :=
  if mask.getLsbD i then i + k else if k ≤ i ∧ mask.getLsbD (i - k) then i - k else i

theorem swapPass_getLsbD (k : Nat) (mask x : BitVec 64) {i : Nat} (hi : i < 64) :
    (swapPass k mask x).getLsbD i =
      (x.getLsbD i ^^ (mask.getLsbD i && (x.getLsbD i ^^ x.getLsbD (i + k))) ^^
        (decide (k ≤ i ∧ mask.getLsbD (i - k) = true) && (x.getLsbD (i - k) ^^ x.getLsbD i))) := by
  simp only [swapPass, BitVec.getLsbD_xor, BitVec.getLsbD_and, BitVec.getLsbD_ushiftRight, BitVec.getLsbD_shiftLeft, hi,
    decide_true, Bool.true_and, Nat.not_lt, ← decide_not]
  by_cases above : k ≤ i <;> simp [above, Nat.add_comm, Bool.and_comm]

/-- A pass whose masked positions are apart from the ones they exchange with moves bits and does nothing else. -/
theorem swapPass_getLsbD_source {k : Nat} {mask : BitVec 64} (apart : mask &&& mask <<< k = 0) (x : BitVec 64) {i : Nat}
    (hi : i < 64) : (swapPass k mask x).getLsbD i = x.getLsbD (swapSource k mask i) := by
  have apartAt : mask.getLsbD i = true → ¬ (k ≤ i ∧ mask.getLsbD (i - k) = true) := by
    have bit : (mask &&& mask <<< k).getLsbD i = false := by rw [apart]; exact BitVec.getLsbD_zero
    simpa only [BitVec.getLsbD_and, BitVec.getLsbD_shiftLeft, hi, decide_true, Bool.true_and, Bool.and_eq_false_imp,
      Bool.not_eq_true', decide_eq_false_iff_not, Nat.not_lt, not_and, Bool.not_eq_true] using bit
  rw [swapPass_getLsbD k mask x hi, swapSource]
  by_cases lower : mask.getLsbD i = true
  · rw [if_pos lower, lower, decide_eq_false (apartAt lower)]
    simp
  · rw [if_neg lower, eq_false_of_ne_true lower]
    split
    · rename_i upper
      rw [decide_eq_true upper]
      cases x.getLsbD i <;> simp
    · rename_i upper
      rw [decide_eq_false upper]
      simp

/-- Byte `j` of a 64-bit word holds the bits of row `j` alone (R90). -/
theorem placedByte_getLsbD (x : Byte) (j : Nat) (r c : Fin 8) :
    (x.setWidth 64 <<< (8 * j)).getLsbD (8 * r.val + c.val) = (decide (r.val = j) && x.getLsbD c.val) := by
  rw [BitVec.getLsbD_shiftLeft, BitVec.getLsbD_setWidth]
  rcases lt_trichotomy r.val j with before | rfl | after
  · simp [before.ne, show 8 * r.val + c.val < 8 * j by omega]
  · simp [show 8 * r.val + c.val < 64 by omega, show c.val < 64 by omega]
  · simp [after.ne', BitVec.getLsbD_of_ge x (8 * r.val + c.val - 8 * j) (by omega)]

theorem packBlock_eq (b : Block) : packBlock b =
    b.b0.setWidth 64 <<< (8 * 0) ||| b.b1.setWidth 64 <<< (8 * 1) ||| b.b2.setWidth 64 <<< (8 * 2) |||
      b.b3.setWidth 64 <<< (8 * 3) ||| b.b4.setWidth 64 <<< (8 * 4) ||| b.b5.setWidth 64 <<< (8 * 5) |||
      b.b6.setWidth 64 <<< (8 * 6) ||| b.b7.setWidth 64 <<< (8 * 7) := by
  simp [packBlock]

theorem packBlock_getLsbD (b : Block) (r c : Fin 8) : (packBlock b).getLsbD (8 * r.val + c.val) = (b.get r).getLsbD c.val := by
  simp only [packBlock_eq, BitVec.getLsbD_or, placedByte_getLsbD]
  match r with
  | 0 | 1 | 2 | 3 | 4 | 5 | 6 | 7 => simp [Eight.get]

theorem unpackBlock_getLsbD (x : BitVec 64) (r c : Fin 8) :
    ((unpackBlock x).get r).getLsbD c.val = x.getLsbD (8 * r.val + c.val) := by
  simp [unpackBlock]

/-- The three passes exchange the bits of the row number with those of the column number, one bit each. -/
theorem swapSources_exchange (r c : Fin 8) :
    swapSource 7 0x00AA00AA00AA00AA (swapSource 14 0x0000CCCC0000CCCC (swapSource 28 0x00000000F0F0F0F0 (8 * r.val + c.val))) =
      8 * c.val + r.val := by
  revert r c
  decide

theorem swapSource_lt (r c : Fin 8) :
    swapSource 28 0x00000000F0F0F0F0 (8 * r.val + c.val) < 64 ∧
    swapSource 14 0x0000CCCC0000CCCC (swapSource 28 0x00000000F0F0F0F0 (8 * r.val + c.val)) < 64 := by
  revert r c
  decide

theorem transposeBySwaps_eq (b : Block) : transposeBySwaps b = transpose8 b := by
  apply Block.eq_of_bits
  intro r c
  have ⟨first, second⟩ := swapSource_lt r c
  rw [transposeBySwaps, unpackBlock_getLsbD, swapPass_getLsbD_source (by decide) _ (by omega),
    swapPass_getLsbD_source (by decide) _ first, swapPass_getLsbD_source (by decide) _ second, swapSources_exchange,
    packBlock_getLsbD, transpose8_getLsbD]

/-- Settles O55: the datapath's answer, and the transpose bit by bit. -/
theorem transposeExchangesRowsAndColumns : Obligations.TransposeExchangesRowsAndColumns :=
  ⟨exec_dpTranspose8, transpose8_getLsbD, transpose8_transpose8, transposeBySwaps_eq⟩

/-! The scatter: the writes at a list of positions, in order (R302). -/

section scatter
variable (l : Frame) (o : Seven (Fin 7))

/-- The frame `w` with the words of the positions `is` written to their slots, one after the other. -/
def scatterFrom (w : Frame) (is : List (Fin 7)) : Frame := is.foldl (fun w i => w.set (o.get i) (l.get i)) w

theorem scatter_eq : scatter l o = scatterFrom l o zeroFrame seven := rfl

theorem scatterFrom_cons (w : Frame) (i : Fin 7) (is : List (Fin 7)) :
    scatterFrom l o w (i :: is) = scatterFrom l o (w.set (o.get i) (l.get i)) is := rfl

variable {l o}

/-- A slot no position of the list names keeps its word. -/
theorem scatterFrom_get_of_unnamed {k : Fin 7} (is : List (Fin 7)) (w : Frame) (h : ∀ i ∈ is, o.get i ≠ k) :
    (scatterFrom l o w is).get k = w.get k := by
  induction is generalizing w with
  | nil => rfl
  | cons i is ih =>
    obtain ⟨here, later⟩ := List.forall_mem_cons.mp h
    rw [scatterFrom_cons, ih _ later, Seven.get_set_of_ne _ _ here]

/-- Of positions in ascending order, the last that names a slot wins. -/
theorem scatterFrom_get_of_last {i : Fin 7} (is : List (Fin 7)) (w : Frame) (ascending : is.Pairwise (· < ·)) (listed : i ∈ is)
    (last : ∀ j ∈ is, i < j → o.get j ≠ o.get i) : (scatterFrom l o w is).get (o.get i) = l.get i := by
  induction is generalizing w with
  | nil => cases listed
  | cons j is ih =>
    obtain ⟨above, ascending⟩ := List.pairwise_cons.mp ascending
    obtain ⟨-, lastOfRest⟩ := List.forall_mem_cons.mp last
    rw [scatterFrom_cons]
    rcases List.mem_cons.mp listed with rfl | listed
    · rw [scatterFrom_get_of_unnamed is _ fun j hj => lastOfRest j hj (above j hj), Seven.get_set_self]
    · exact ih _ ascending listed lastOfRest

theorem mem_seven (i : Fin 7) : i ∈ seven := by
  revert i
  decide

theorem seven_ascending : seven.Pairwise (· < ·) := by decide

theorem scatter_get_of_last {i : Fin 7} (last : ∀ j : Fin 7, i < j → o.get j ≠ o.get i) :
    (scatter l o).get (o.get i) = l.get i := by
  rw [scatter_eq]
  exact scatterFrom_get_of_last seven zeroFrame seven_ascending (mem_seven i) fun j _ => last j

theorem scatter_get_of_unnamed {k : Fin 7} (h : ∀ i : Fin 7, o.get i ≠ k) : (scatter l o).get k = 0 := by
  rw [scatter_eq, scatterFrom_get_of_unnamed seven zeroFrame fun i _ => h i, zeroFrame, Seven.get_replicate]

end scatter

/-- Settles O56, by induction on the positions written. -/
theorem scatterPutsWordsInTheirSlots : Obligations.ScatterPutsWordsInTheirSlots :=
  ⟨fun s l => ⟨exec_dpScatter s l, exec_dpXfDirect s l⟩,
    fun _ _ => ⟨fun _ => scatter_get_of_last, fun _ => scatter_get_of_unnamed⟩⟩

/-! The transposed layout (R304): position j of a frame is row j + 1 of the block. -/

theorem rowFrame_get (u : Block) (j : Fin 7) : (rowFrame u).get j = (u.get j.succ).setWidth 16 := by
  match j with
  | 0 | 1 | 2 | 3 | 4 | 5 | 6 => rfl

theorem transposedBlock_get (l : Frame) (c : Fin 7) : (transposedBlock l).get c.castSucc = shiftedByte (l.get c) := by
  match c with
  | 0 | 1 | 2 | 3 | 4 | 5 | 6 => rfl

theorem transposedBlock_get_last (l : Frame) : (transposedBlock l).get (Fin.last 7) = 0 := rfl

theorem lowByte_getLsbD (w : Word) (i : Nat) : (lowByte w).getLsbD i = (decide (i < 8) && w.getLsbD i) := by
  simp [lowByte]

theorem shiftedByte_getLsbD_succ (w : Word) (j : Fin 7) : (shiftedByte w).getLsbD (j.val + 1) = w.getLsbD j.val := by
  have inside : j.val + 1 < 8 ∧ j.val < 8 := by omega
  simp [shiftedByte, BitVec.getLsbD_shiftLeft, lowByte_getLsbD, inside, -BitVec.getLsbD_eq_getElem]

section transposed
variable {l : Frame} {o : Seven (Fin 7)} {j : Fin 7}

theorem xfTransposed_get_of_last (last : ∀ k : Fin 7, j < k → o.get k ≠ o.get j) :
    (xfTransposed l o).get (o.get j) = ((transpose8 (transposedBlock l)).get j.succ).setWidth 16 := by
  rw [xfTransposed, scatter_get_of_last last, rowFrame_get]

theorem xfTransposed_getLsbD (last : ∀ k : Fin 7, j < k → o.get k ≠ o.get j) (c : Fin 7) :
    ((xfTransposed l o).get (o.get j)).getLsbD c.val = (l.get c).getLsbD j.val := by
  have row := transpose8_getLsbD (transposedBlock l) j.succ c.castSucc
  rw [transposedBlock_get, Fin.val_succ, shiftedByte_getLsbD_succ] at row
  have inside : c.val < 16 := by omega
  simpa [xfTransposed_get_of_last last, inside] using row

theorem xfTransposed_getLsbD_high (last : ∀ k : Fin 7, j < k → o.get k ≠ o.get j) {c : Nat} (high : 7 ≤ c) :
    ((xfTransposed l o).get (o.get j)).getLsbD c = false := by
  have zero : ((transpose8 (transposedBlock l)).get j.succ).getLsbD c = false := by
    rcases high.eq_or_lt with rfl | above
    · have row := transpose8_getLsbD (transposedBlock l) j.succ (Fin.last 7)
      rw [transposedBlock_get_last] at row
      exact row.trans BitVec.getLsbD_zero
    · exact BitVec.getLsbD_of_ge _ _ above
  simp [xfTransposed_get_of_last last, zero]

end transposed

/-- Settles O57: row j + 1 of the transposed block is segment j of every word. -/
theorem transposedLayoutGathersSegments : Obligations.TransposedLayoutGathersSegments :=
  ⟨exec_dpXfTransposed, fun _ _ =>
    ⟨fun _ last => ⟨xfTransposed_getLsbD last, fun _ => xfTransposed_getLsbD_high last⟩, fun _ => scatter_get_of_unnamed⟩⟩

/-! The transposed layout undone (R331). -/

/-- The rows `untranspose` gathers: row 0 empty, row j + 1 from the slot of position j. -/
def gatheredBlock (w : Frame) (o : Seven (Fin 7)) : Block :=
  ⟨0, lowByte (w.get (o.get 0)), lowByte (w.get (o.get 1)), lowByte (w.get (o.get 2)), lowByte (w.get (o.get 3)),
    lowByte (w.get (o.get 4)), lowByte (w.get (o.get 5)), lowByte (w.get (o.get 6))⟩

theorem gatheredBlock_get_succ (w : Frame) (o : Seven (Fin 7)) (j : Fin 7) :
    (gatheredBlock w o).get j.succ = lowByte (w.get (o.get j)) := by
  match j with
  | 0 | 1 | 2 | 3 | 4 | 5 | 6 => rfl

theorem untranspose_get (w : Frame) (o : Seven (Fin 7)) (i : Fin 7) :
    (untranspose w o).get i = (transpose8 (gatheredBlock w o)).get i.castSucc >>> 1 := by
  match i with
  | 0 | 1 | 2 | 3 | 4 | 5 | 6 => rfl

/-- Segment j of position i comes back from bit i of the slot of position j. -/
theorem untranspose_getLsbD (w : Frame) (o : Seven (Fin 7)) (i j : Fin 7) :
    ((untranspose w o).get i).getLsbD j.val = (w.get (o.get j)).getLsbD i.val := by
  have row := transpose8_getLsbD (gatheredBlock w o) i.castSucc j.succ
  have inside : i.val < 8 := by omega
  rw [gatheredBlock_get_succ, Fin.val_succ, Fin.val_castSucc, lowByte_getLsbD, decide_eq_true inside, Bool.true_and] at row
  rw [untranspose_get, BitVec.getLsbD_ushiftRight, Nat.add_comm, row]

theorem untranspose_getLsbD_high (w : Frame) (o : Seven (Fin 7)) (i : Fin 7) {c : Nat} (high : 7 ≤ c) :
    ((untranspose w o).get i).getLsbD c = false := by
  rw [untranspose_get, BitVec.getLsbD_ushiftRight]
  exact BitVec.getLsbD_of_ge _ _ (by omega)

/-- The bits of a constant word, from its sixteen. -/
theorem word_getLsbD_of_bits (w : Word) (p : Nat → Prop) [DecidablePred p]
    (low : ∀ i : Fin 16, w.getLsbD i.val = decide (p i.val)) (inside : ∀ i, p i → i < 16) (i : Nat) :
    w.getLsbD i = decide (p i) := by
  by_cases h : i < 16
  · exact low ⟨i, h⟩
  · rw [BitVec.getLsbD_of_ge _ _ (Nat.le_of_not_lt h), decide_eq_false (mt (inside i) h)]

theorem segmentMask_getLsbD (i : Nat) : (0x007F : Word).getLsbD i = decide (i < 7) :=
  word_getLsbD_of_bits 0x007F (· < 7) (by decide) (by omega) i

theorem muxMask_getLsbD (i : Nat) : (0x00E0 : Word).getLsbD i = decide (5 ≤ i ∧ i ≤ 7) :=
  word_getLsbD_of_bits 0x00E0 (fun i => 5 ≤ i ∧ i ≤ 7) (by decide) (by omega) i

/-- Settles O58, bit by bit: under a permutation each position is the only one that names its slot. -/
theorem transposedLayoutIsInvertible : Obligations.TransposedLayoutIsInvertible := by
  intro l o injective i
  apply BitVec.eq_of_getLsbD_eq
  intro c hc
  rw [BitVec.getLsbD_setWidth, BitVec.getLsbD_and, segmentMask_getLsbD]
  by_cases segment : c < 7
  · have last (k : Fin 7) (above : ⟨c, segment⟩ < k) : o.get k ≠ o.get ⟨c, segment⟩ :=
      fun same => above.ne' (injective _ _ same)
    have back := (untranspose_getLsbD (xfTransposed l o) o i ⟨c, segment⟩).trans (xfTransposed_getLsbD last i)
    simp [back, hc, segment]
  · simp [untranspose_getLsbD_high, segment, Nat.le_of_not_lt segment]

/-! The narrow layout (R305) and the multiplexed one (R306). -/

theorem narrowColonPos_val (p : Params) : (narrowColonPos p).val = p.narrowColon.val + 1 := by
  unfold narrowColonPos
  split <;> simp [*]

/-- The digits 1 to 5 of a frame alone. -/
def narrowDigits (l : Frame) : Frame := ⟨0, l.a1, l.a2, l.a3, l.a4, l.a5, 0⟩

theorem narrowDigits_get (l : Frame) (i : Fin 7) : (narrowDigits l).get i = if i = 0 ∨ i = 6 then 0 else l.get i := by
  match i with
  | 0 | 1 | 2 | 3 | 4 | 5 | 6 => rfl

/-- The frame the narrow layout scatters. -/
def narrowFrame (s : State) (l : Frame) : Frame :=
  Seven.ofFn (fun i =>
    if i = 0 ∨ i = 6 then 0
    else if l.a0 &&& dotMask s iconColon ≠ 0 ∧ i.val = s.par.narrowColon.val + 1 then l.get i ||| 0x0080
    else l.get i)

theorem xfNarrow5_eq (mask : Word) (pos : Fin 7) (l : Frame) (o : Seven (Fin 7)) :
    xfNarrow5 mask pos l o =
      scatter (if l.a0 &&& mask = 0 then narrowDigits l else (narrowDigits l).set pos ((narrowDigits l).get pos ||| 0x0080)) o :=
  rfl

theorem narrowOn_eq (s : State) (l : Frame) (o : Seven (Fin 7)) : narrowOn s l o = scatter (narrowFrame s l) o := by
  have pos := narrowColonPos_val s.par
  rw [narrowOn, xfNarrow5_eq]
  refine congrArg (scatter · o) (Seven.eq_of_get fun i => ?_)
  rw [narrowFrame, Seven.get_ofFn]
  split
  · rename_i dark
    simp [narrowDigits_get, dark]
  · rename_i lit
    by_cases here : narrowColonPos s.par = i
    · subst here
      have digit : ¬ (narrowColonPos s.par = 0 ∨ narrowColonPos s.par = 6) := by omega
      rw [Seven.get_set_self, narrowDigits_get, if_neg digit, if_neg digit, if_pos ⟨lit, pos⟩]
    · have other : ¬ (l.a0 &&& dotMask s iconColon ≠ 0 ∧ i.val = s.par.narrowColon.val + 1) := by omega
      rw [Seven.get_set_of_ne _ _ here, narrowDigits_get, if_neg other]

theorem muxWord_getLsbD (w : Word) (k : Nat) :
    (muxWord w).getLsbD k = (w.getLsbD k || (decide (11 ≤ k ∧ k ≤ 13) && w.getLsbD (k - 6))) := by
  have moved : (decide (k < 16) && !decide (k < 6) && decide (5 ≤ k - 6 ∧ k - 6 ≤ 7)) = decide (11 ≤ k ∧ k ≤ 13) := by
    simp only [← decide_not, ← Bool.decide_and, decide_eq_decide]
    omega
  rw [muxWord, BitVec.getLsbD_or, BitVec.getLsbD_shiftLeft, BitVec.getLsbD_and, muxMask_getLsbD, Bool.and_comm (w.getLsbD _),
    ← Bool.and_assoc, moved]

/-- Settles O59: the narrow layout digit by digit, the multiplexed one bit by bit. -/
theorem narrowAndMuxLayouts : Obligations.NarrowAndMuxLayouts :=
  fun s l n => ⟨fun digits => by rw [exec_dpXfNarrow5, narrowOn_eq, digits, narrowFrame], exec_dpXfMuxext s l, muxWord_getLsbD⟩

end Machine
end Sys2Proof
end

section
/-! PROOFS, family 60_exceptions.md. A word of no row is ILLEGAL (R407), and its cause can be read off UNIT:OP (R122): a row with
that UNIT:OP leaves only the MBZ fields to fail, and with no such row the byte itself says whether the unit exists. -/

namespace Sys2Proof

/-! UNIT:OP as a number. -/

theorem fieldsOfWord_op_toNat (cw : BitVec 32) : (fieldsOfWord cw).op.toNat = cw.toNat / 2 ^ 24 := by
  simp only [fieldsOfWord, BitVec.extractLsb'_toNat, Nat.shiftRight_eq_div_pow]
  omega

theorem OpcodeRow.op_eq_iff (r : OpcodeRow) (cw : BitVec 32) :
    r.op = (fieldsOfWord cw).op ↔ r.pattern.toNat / 2 ^ 24 = cw.toNat / 2 ^ 24 := by
  rw [← BitVec.toNat_inj, OpcodeRow.op, fieldsOfWord_op_toNat, fieldsOfWord_op_toNat]

/-- UNIT is 0x1 to 0x6, the units that exist (R114). -/
def unitExists (op : Byte) : Prop := 0x10 ≤ op.toNat ∧ op.toNat < 0x70

theorem opcodeRows_unitExists : ∀ r ∈ opcodeRows, unitExists r.op := by
  unfold unitExists
  decide +kernel

theorem not_unitExists_iff (cw : BitVec 32) :
    ¬ unitExists (fieldsOfWord cw).op ↔ cw.toNat / 2 ^ 28 = 0 ∨ 7 ≤ cw.toNat / 2 ^ 28 := by
  rw [unitExists, fieldsOfWord_op_toNat]
  omega

/-! The cause of each rejection. -/

theorem whenZero_eq_error_iff {b : Bool} {i : Instr} {e : DecodeError} :
    whenZero b i = .error e ↔ b = false ∧ e = .mustBeZero := by
  cases b <;> simp [whenZero, eq_comm]

/-- On the UNIT:OP of a row the only thing that can be wrong is an MBZ field. -/
theorem mustBeZero_of_row {r : OpcodeRow} {c : Command} {e : DecodeError} (hr : r ∈ opcodeRows)
    (hop : r.op = (fieldsOfWord c.cw).op) (h : decode c = .error e) : e = .mustBeZero := by
  obtain ⟨i, hi, -⟩ := opcodeRows_decode hr (fieldsOfWord c.cw).la (fieldsOfWord c.cw).lb c.txp
  rw [hop] at hi
  exact (whenZero_eq_error_iff.1 (hi.symm.trans h)).2

/-- On a UNIT:OP of no row the unit alone decides the cause. -/
theorem decodeFields_of_no_row {f : Fields} (txp : List Byte) (h : ∀ r ∈ opcodeRows, r.op ≠ f.op) :
    (unitExists f.op ∧ decodeFields f txp = .error .reservedOp) ∨
      (¬ unitExists f.op ∧ decodeFields f txp = .error .reservedUnit) := by
  unfold decodeFields
  split
  case h_56 =>
    by_cases unit : unitExists f.op
    · exact .inl ⟨unit, congrArg Except.error (if_pos unit)⟩
    · exact .inr ⟨unit, congrArg Except.error (if_neg unit)⟩
  all_goals
    next hop => exact absurd (hop ▸ h) (by decide +kernel)

theorem decode_cause (c : Command) :
    (∃ r ∈ opcodeRows, r.op = (fieldsOfWord c.cw).op) ∨
      (unitExists (fieldsOfWord c.cw).op ∧ decode c = .error .reservedOp) ∨
      (¬ unitExists (fieldsOfWord c.cw).op ∧ decode c = .error .reservedUnit) := by
  by_cases row : ∃ r ∈ opcodeRows, r.op = (fieldsOfWord c.cw).op
  · exact .inl row
  · exact .inr (decodeFields_of_no_row c.txp fun r hr hop => row ⟨r, hr, hop⟩)

theorem decode_reservedUnit_iff (c : Command) :
    decode c = .error .reservedUnit ↔ ¬ unitExists (fieldsOfWord c.cw).op := by
  obtain ⟨r, hr, hop⟩ | ⟨unit, hd⟩ | ⟨unit, hd⟩ := decode_cause c
  · constructor
    · intro hd
      cases mustBeZero_of_row hr hop hd
    · intro unit
      exact absurd (hop ▸ opcodeRows_unitExists r hr) unit
  · simp [hd, unit]
  · simp [hd, unit]

theorem decode_mustBeZero_iff (c : Command) :
    decode c = .error .mustBeZero ↔
      (∃ r ∈ opcodeRows, r.op = (fieldsOfWord c.cw).op) ∧ ∀ r, r ∈ opcodeRows → r.covers c.cw = false := by
  constructor
  · intro hd
    refine ⟨?_, (uncovered_iff_decode_error c).2 ⟨_, hd⟩⟩
    obtain row | ⟨-, other⟩ | ⟨-, other⟩ := decode_cause c
    · exact row
    · cases hd.symm.trans other
    · cases hd.symm.trans other
  · rintro ⟨⟨r, hr, hop⟩, uncovered⟩
    obtain ⟨e, hd⟩ := (uncovered_iff_decode_error c).1 uncovered
    rwa [mustBeZero_of_row hr hop hd] at hd

namespace Machine

/-! The step at a command. -/

theorem step_command {s : State} {c : Command} {rest : List HostInput} (ready : s.seq = .ready) (running : s.refused = false)
    (port : s.env.inbox = .command c :: rest) : step s = runCommand c { s with env := { s.env with inbox := rest } } := by
  simp [step, takeInput, dropInput, ready, running, port]

theorem runCommand_of_decode_error {c : Command} {e : DecodeError} (h : decode c = .error e) (s : State) :
    runCommand c s = .next (rejected .illegal s) := by
  rw [runCommand, h, illegal_eq]

/-- Settles O7: a word of no row decodes to an error, whichever it is, and the error names what UNIT:OP and the MBZ fields say. -/
theorem illegalWordsChangeNothing : Obligations.IllegalWordsChangeNothing := by
  refine ⟨?_, fun c => (decode_reservedUnit_iff c).trans (not_unitExists_iff c.cw), ?_⟩
  · intro s c rest ready running port uncovered
    obtain ⟨e, hd⟩ := (uncovered_iff_decode_error c).1 uncovered
    rw [step_command ready running port, runCommand_of_decode_error hd]
  · intro c
    simp only [← OpcodeRow.op_eq_iff]
    exact decode_mustBeZero_iff c

end Machine
end Sys2Proof
end

section
/-! PROOFS, family 70_reset_and_hazards.md. The reset values (R441), and the timing of the controller on LED over TW (R459): every
command is a chain of strobe frames, the bring-up with the line set-up before it, and each link is counted once. -/

namespace Sys2Proof.Machine

/-- Settles O9: each register is a field of the reset state (R60). -/
theorem resetValues : Obligations.ResetValues := by
  intro p
  have status : statusWord (State.resetWith p).status = 0 := by
    show statusWord ⟨.ok, false, 0⟩ = 0
    decide
  have wbuf (k : Fin 7) : wbufRead (State.resetWith p) k = 0 := Seven.get_replicate 0 k
  exact ⟨rfl, rfl, rfl, rfl, status, rfl, rfl, wbuf, rfl, rfl, rfl, rfl⟩

/-! What a run emits, in events and phases. -/

/-- From `s` to `t` the trace grows by `events` events that take `phases` phases of d3 at the shortest (R453). -/
def Took (events phases : Nat) (s t : State) : Prop := ∃ es, t.trace = s.trace ++ es ∧ Measures (d3 s) events phases es

/-- Bus steps that took so long, and kept the registers the next ones depend on. -/
structure Timed (events phases : Nat) (s t : State) : Prop where
  cfg : t.cfg = s.cfg
  ctlr : t.ctlr = s.ctlr
  par : t.par = s.par
  took : Took events phases s t

theorem Timed.trans {n p m q : Nat} {s t u : State} (a : Timed n p s t) (b : Timed m q t u) : Timed (n + m) (p + q) s u := by
  obtain ⟨es, traceA, measuresA⟩ := a.took
  obtain ⟨fs, traceB, measuresB⟩ := b.took
  have phase : d3 t = d3 s := congrArg (fun c : EngineCfg => c.td3.toNat) a.cfg
  rw [phase] at measuresB
  exact ⟨b.cfg.trans a.cfg, b.ctlr.trans a.ctlr, b.par.trans a.par, es ++ fs,
    by rw [traceB, traceA, List.append_assoc], measuresA.append measuresB⟩

/-- The LED backend is active and on the TW bus, and BRIGHT_CMD has no entry, so the bytes are those of R349. -/
structure LedOverTw (s : State) : Prop where
  active : s.ctlr.active = .led
  bus : busOf s.par .led = .tw
  table : s.par.brightCmd = []

theorem LedOverTw.busOf_active {s : State} (led : LedOverTw s) : busOf s.par s.ctlr.active = .tw := by
  rw [led.active, led.bus]

theorem Timed.ledOverTw {n p : Nat} {s t : State} (a : Timed n p s t) (led : LedOverTw s) : LedOverTw t := by
  obtain ⟨active, bus, table⟩ := led
  exact ⟨by rw [a.ctlr, active], by rw [a.par, bus], by rw [a.par, table]⟩

/-- The end of a command emits nothing. -/
theorem Took.finishAck {n p : Nat} {s : State} {r : Bool × State} (h : Took n p s r.2) :
    ∃ t, Machine.finishAck r = .next t ∧ Took n p s t :=
  ⟨_, rfl, h⟩

theorem Took.finishCount {n p : Nat} {s : State} {r : Bool × State} (k : Len) (h : Took n p s r.2) :
    ∃ t, Machine.finishCount k r = .next t ∧ Took n p s t :=
  ⟨_, rfl, h⟩

/-! The bus steps. -/

/-- A bus command on TW is one strobe frame (R163, R345). -/
theorem busWrite_timed {s : State} (led : LedOverTw s) (cs ds : List Byte) :
    Timed (5 + 40 * (cs ++ ds).length) (2 + 16 * (cs ++ ds).length) s (busWrite cs ds s).2 := by
  have frame : (busWrite cs ds s).2 = twWriteFrame (cs ++ ds) s := by rw [busWrite, led.busOf_active]
  rw [frame, twWriteFrame_eq]
  exact ⟨rfl, rfl, rfl, _, withEvents_trace _ _, twFrameEvents_measures (d3 s) (cs ++ ds)⟩

/-- A frame of one byte (R163). -/
theorem busWrite_byte_timed {s : State} (led : LedOverTw s) (b : Byte) : Timed 45 18 s (busWrite [b] [] s).2 :=
  busWrite_timed led [b] []

theorem run_byte_timed {s : State} (led : LedOverTw s) (b : Byte) : Timed 45 18 s (run [.w [b] []] s).2 := by
  simp only [run]
  exact busWrite_byte_timed led b

/-- A frame of the address byte and the fourteen bytes of WBUF (R163, R347). -/
theorem busWrite_frame_timed {s : State} (led : LedOverTw s) (b : Byte) (w : Frame) :
    Timed 605 242 s (busWrite [b] (frameBytes w) s).2 := by
  simpa [frameBytes_length] using busWrite_timed led [b] (frameBytes w)

/-- The line set-up of INIT: four events, one phase (R346, R459). -/
theorem ledLines_timed (s : State) : Timed 4 1 s (ledLines s) := by
  rw [ledLines_eq]
  exact ⟨rfl, rfl, rfl, _, withEvents_trace _ _, rfl, by simp⟩

/-- The bring-up is the line set-up and the display-mode frame (R346). -/
theorem backendInit_timed {s : State} (led : LedOverTw s) : Timed 49 19 s (backendInit s).2 := by
  have bringUp : backendInit s = ledInitTw s := by
    unfold backendInit
    rw [led.active, led.bus]
  have lines := ledLines_timed s
  rw [bringUp]
  exact lines.trans (run_byte_timed (lines.ledOverTw led) s.par.twModeCmd)

/-- Brightness and power go out as one byte (R349). -/
theorem sendBrightness_timed {s : State} (led : LedOverTw s) : Timed 45 18 s (sendBrightness s).2 := by
  have cmds : brightCmd s.par s.ctlr.power s.ctlr.active s.ctlr.bright s.ctlr.power =
      [.w [ledBrightByte s.ctlr.bright s.ctlr.power] []] := by
    rw [brightCmd, led.table, led.active]
    rfl
  rw [sendBrightness, cmds]
  exact run_byte_timed led _

/-- A frame emission is the data-mode byte, then the address byte with the fourteen bytes of WBUF (R347). -/
theorem ledEmit_timed {s : State} (led : LedOverTw s) : Timed 650 260 s (ledEmit s).2 := by
  have cmds : ledEmit s = run [.w [s.par.twDataCmd] [], .w [s.par.twAddrCmd] (frameBytes s.wbuf)] s := by
    rw [ledEmit, led.bus]
  have mode := busWrite_byte_timed led s.par.twDataCmd
  simp only [cmds, run]
  exact mode.trans (busWrite_frame_timed (mode.ledOverTw led) s.par.twAddrCmd s.wbuf)

/-- On LED over TW, INIT of the descriptor in force has nothing to select and nothing to probe: it clears BYTECNT (R241, R344). -/
theorem initProbed_led {s : State} (led : LedOverTw s) (desc : backendOf s.par s.ctlr.desc = .led) :
    initProbed s = clearByteCount s := by
  have head : initHead s = s := by
    rw [initHead_eq, desc, ← led.active, addressed, if_neg (by simp [desc, led.bus])]
  rw [initProbed, head, probeTarget, if_neg (by simp [led.busOf_active]), startByteCount, if_pos led.busOf_active]

theorem initBody_timed {s : State} (led : LedOverTw s) (desc : backendOf s.par s.ctlr.desc = .led) :
    Timed 94 37 s (initBody s).2 := by
  have cleared : Timed 0 0 s (clearByteCount s) := ⟨rfl, rfl, rfl, [], (List.append_nil _).symm, rfl, rfl⟩
  have up := cleared.trans (backendInit_timed (cleared.ledOverTw led))
  rw [initBody_eq, initProbed_led led desc]
  exact up.trans (sendBrightness_timed (up.ledOverTw led))

/-! The commands. -/

/-- A controller command past its checks (R261, R408). -/
theorem controller_runs {need : Nat} {txp : List Byte} {body : State → Result} {s : State} (idle : bothIdle s)
    (length : txp.length = need) : controller need txp body s = body (begin s) :=
  command_runs ((enginesIdle_iff s).mpr idle) length

/-- CTL.WRITE_RAW on LED, past its checks (R250). -/
theorem exec_ctlWriteRaw_led {n : Len} {txp : List Byte} {s : State} (idle : bothIdle s) (led : s.ctlr.active = .led)
    (length : txp.length = 2 * n.toNat) (words : n.toNat ≤ 7) :
    exec (.ctlWriteRaw n txp) s = finishCount n (ledEmit (layOut (rawFrame n.toNat txp) (begin s))) := by
  show execCtlWriteRaw n txp s = _
  rw [execCtlWriteRaw, controller_runs idle length, if_neg (Nat.not_lt.mpr words), begin_ctlr, led]

/-- CTL.WRITE_DISPLAY_FRAME on LED, past its checks (R251). -/
theorem exec_ctlWriteDisplayFrame_led {n : Len} {txp : List Byte} {s : State} (idle : bothIdle s)
    (led : s.ctlr.active = .led) (length : txp.length = n.toNat) (size : n.toNat = s.par.ddSize) :
    exec (.ctlWriteDisplayFrame n txp) s =
      finishAck (ledEmit (layOut (displayFrame (begin s) (ddDecode s.par txp)) (begin s))) := by
  show execCtlWriteDisplayFrame n txp s = _
  rw [execCtlWriteDisplayFrame, controller_runs idle length, begin_par, if_neg (not_not_intro size), begin_ctlr, led]

/-- CTL.SET_BRIGHTNESS on LED with one of its eight levels, past its checks (R243, R349). -/
theorem exec_ctlSetBrightness_led {l : Byte} {s : State} (idle : bothIdle s) (led : s.ctlr.active = .led)
    (level : l.toNat < 8) : exec (.ctlSetBrightness l []) s = finishAck (sendBrightness (setBright l (begin s))) := by
  have legal : ¬ levels (begin s).par (begin s).ctlr.active ≤ l.toNat := by
    rw [begin_ctlr, led]
    exact Nat.not_le.mpr level
  show execCtlSetBrightness l [] s = _
  rw [execCtlSetBrightness, controller_runs idle List.length_nil, if_neg legal]

/-- CTL.SET_POWER past its checks (R245). -/
theorem exec_ctlSetPower_idle (on : Bool) {s : State} (idle : bothIdle s) :
    exec (.ctlSetPower on []) s = finishAck (sendBrightness (setPower on (begin s))) := by
  show execCtlSetPower on [] s = _
  rw [execCtlSetPower, controller_runs idle List.length_nil]

/-- A frame write takes the time of its emission: the layout is computed between events (R307, R459). -/
theorem ledEmit_layOut_took {s : State} (led : LedOverTw s) (raw : Frame) :
    Took 650 260 s (ledEmit (layOut raw (begin s))).2 :=
  have ready : LedOverTw (layOut raw (begin s)) := ⟨led.active, led.bus, led.table⟩
  (ledEmit_timed ready).took

/-- Settles O53, command by command: each ends where its bus steps do. -/
theorem ledControllerTiming : Obligations.LedControllerTiming := by
  intro i s events phases idle table active desc bus command
  have led : LedOverTw s := ⟨active, bus, table⟩
  suffices timing : ∃ t, exec i s = .next t ∧ Took events phases s t by
    obtain ⟨t, next, es, trace, length, phase⟩ := timing
    exact ⟨t, es, next, trace, length, phase.trans (Nat.mul_comm _ _)⟩
  rcases command with ⟨rfl, rfl, rfl⟩ | ⟨⟨n, txp, rfl, length, words⟩, rfl, rfl⟩ | ⟨⟨n, txp, rfl, length, size⟩, rfl, rfl⟩ |
    ⟨⟨l, rfl, level⟩, rfl, rfl⟩ | ⟨⟨on, rfl⟩, rfl, rfl⟩
  · have begun : LedOverTw (begin s) := ⟨active, bus, table⟩
    have body : Took 94 37 s (initBody (begin s)).2 := (initBody_timed begun desc).took
    rw [exec_ctlInit_idle idle]
    exact body.finishAck
  · rw [exec_ctlWriteRaw_led idle active length words]
    exact (ledEmit_layOut_took led _).finishCount n
  · rw [exec_ctlWriteDisplayFrame_led idle active length size]
    exact (ledEmit_layOut_took led _).finishAck
  · have written : LedOverTw (setBright l (begin s)) := ⟨active, bus, table⟩
    have body : Took 45 18 s (sendBrightness (setBright l (begin s))).2 := (sendBrightness_timed written).took
    rw [exec_ctlSetBrightness_led idle active level]
    exact body.finishAck
  · have written : LedOverTw (setPower on (begin s)) := ⟨active, bus, table⟩
    have body : Took 45 18 s (sendBrightness (setPower on (begin s))).2 := (sendBrightness_timed written).took
    rw [exec_ctlSetPower_idle on idle]
    exact body.finishAck

end Sys2Proof.Machine
end

section
/-! PROOFS, family other: the encoding. A word is its three fields and nothing else, so encoder and decoder need only agree on the
fields; there each operand form is one lemma, and the rows only name their form (R112, R113, R115 to R121). -/

namespace Sys2Proof

-- One proof at a time: elaborated side by side, the text comes close to the check's memory limit.
set_option Elab.async false

/-! A word of given fields. -/

/-- Bit by bit: each field holds its own bits of the word, and the other two have none there. -/
theorem fieldsOfWord_wordOfFields (f : Fields) : fieldsOfWord (wordOfFields f) = f := by
  obtain ⟨op, la, lb⟩ := f
  simp only [fieldsOfWord, wordOfFields, Fields.mk.injEq]
  refine ⟨?_, ?_, ?_⟩ <;> ext k hk <;>
    simp only [BitVec.getElem_extractLsb', BitVec.getLsbD_or, BitVec.getLsbD_shiftLeft, BitVec.getLsbD_setWidth]
  · have inside : 24 + k < 32 ∧ k < 32 ∧ 24 + k - 24 = k ∧ 12 ≤ 24 + k - 12 ∧ 12 ≤ 24 + k := by omega
    simp [inside, BitVec.getLsbD_of_ge, BitVec.getLsbD_eq_getElem hk]
  · have inside : 12 + k < 24 ∧ k < 32 ∧ 12 + k < 32 ∧ 12 + k - 12 = k := by omega
    simp [inside, BitVec.getLsbD_of_ge, BitVec.getLsbD_eq_getElem hk]
  · have inside : k < 24 ∧ k < 32 := by omega
    simp [inside, hk]

theorem wordOfFields_fieldsOfWord (cw : BitVec 32) : wordOfFields (fieldsOfWord cw) = cw :=
  fieldsOfWord_injective (fieldsOfWord_wordOfFields _)

/-! Decoding what was encoded. -/

open Laws.EncodeThenDecode in
theorem decodeFields_fieldsOfInstr (i : Instr) : decodeFields (fieldsOfInstr i) i.txp = .ok i := by
  cases i with
  | i2cReadCmdData => exact i2cReadCmdData ..
  | i2cReadData => exact i2cReadData ..
  | i2cReadByte => exact i2cReadByte ..
  | i2cWriteCmdData => exact i2cWriteCmdData ..
  | i2cWriteData => exact i2cWriteData ..
  | i2cWriteByte => exact i2cWriteByte ..
  | i2cStart => exact i2cStart ..
  | i2cStop => exact i2cStop ..
  | i2cTxBit => exact i2cTxBit ..
  | i2cRxBit => exact i2cRxBit ..
  | i2cAckPoll => exact i2cAckPoll ..
  | i2cTxByte => exact i2cTxByte ..
  | i2cRxByte => exact i2cRxByte ..
  | i2cAddr => exact i2cAddr ..
  | twReadCmdData => exact twReadCmdData ..
  | twReadData => exact twReadData ..
  | twReadByte => exact twReadByte ..
  | twWriteCmdData => exact twWriteCmdData ..
  | twWriteData => exact twWriteData ..
  | twWriteByte => exact twWriteByte ..
  | twBegin => exact twBegin ..
  | twEnd => exact twEnd ..
  | twTxBit => exact twTxBit ..
  | twRxBit => exact twRxBit ..
  | twTxByte => exact twTxByte ..
  | twRxByte => exact twRxByte ..
  | ctlInit => exact ctlInit ..
  | ctlGetBrightness => exact ctlGetBrightness ..
  | ctlSetBrightness => exact ctlSetBrightness ..
  | ctlGetPower => exact ctlGetPower ..
  | ctlSetPower => exact ctlSetPower ..
  | ctlGetDescriptor => exact ctlGetDescriptor ..
  | ctlSetDescriptor => exact ctlSetDescriptor ..
  | ctlSetIcon => exact ctlSetIcon ..
  | ctlReadRaw => exact ctlReadRaw ..
  | ctlWriteRaw => exact ctlWriteRaw ..
  | ctlWriteDisplayFrame => exact ctlWriteDisplayFrame ..
  | ctlSetOrder => exact ctlSetOrder ..
  | ctlSetIndicatorMask => exact ctlSetIndicatorMask ..
  | ctlGetMode => exact ctlGetMode ..
  | ctlSetMode => exact ctlSetMode ..
  | ctlReloadDefaults => exact ctlReloadDefaults ..
  | dpTranspose8 => exact dpTranspose8 ..
  | dpScatter => exact dpScatter ..
  | dpXfDirect => exact dpXfDirect ..
  | dpXfTransposed => exact dpXfTransposed ..
  | dpXfNarrow5 => exact dpXfNarrow5 ..
  | dpXfMuxext => exact dpXfMuxext ..
  | dpCharToMask => exact dpCharToMask ..
  | dpLedClock => exact dpLedClock ..
  | oledCmd => exact oledCmd ..
  | oledData => exact oledData ..
  | oledWindow => exact oledWindow ..
  | oledClear => exact oledClear ..
  | miscGetVersion => exact miscGetVersion ..

/-- Settles O1: a word keeps its fields, and the fields of every row decode to it. -/
theorem decodeOfEncode : Obligations.DecodeOfEncode := by
  intro i
  rw [decode, encode, fieldsOfWord_wordOfFields]
  exact decodeFields_fieldsOfInstr i

/-! Encoding what was decoded: what an operand form accepts is the fields its encoder writes. -/

/-- The bits from `n` up are zero. -/
theorem getLsbD_of_high_zero {x : Len} {n m : Nat} (h : x.extractLsb' n m = 0) {k : Nat} (above : n ≤ k) (below : k < n + m) :
    x.getLsbD k = false := by
  have bit := congrArg (fun y => y.getLsbD (k - n)) h
  have inside : k - n < m ∧ n + (k - n) = k := by omega
  simpa [inside] using bit

theorem setWidth_extract_of_high_zero {x : Len} {n m : Nat} (h : x.extractLsb' n m = 0) (whole : n + m = 12) :
    (x.extractLsb' 0 n).setWidth 12 = x := by
  ext k hk
  by_cases low : k < n
  · simp [low, BitVec.getLsbD_eq_getElem hk]
  · have zero : x[k] = false := getLsbD_of_high_zero h (Nat.le_of_not_lt low) (by omega)
    simp [low, zero]

theorem bitField_getLsbD (b : Bool) (k : Nat) : (bitField b).getLsbD k = (decide (k = 0) && b) := by
  cases b <;> simp [bitField]

theorem bitField_of_high_zero {x : Len} (h : x.extractLsb' 1 11 = 0) : bitField (x.getLsbD 0) = x := by
  apply BitVec.eq_of_getLsbD_eq
  intro k hk
  rw [bitField_getLsbD]
  rcases Nat.eq_zero_or_pos k with rfl | above
  · simp
  · simp [getLsbD_of_high_zero h above (by omega), Nat.ne_of_gt above]

/-- The two bit immediates of I2C.ADDR (R115). -/
theorem addrField_of_high_zero {x : Len} (h : x.extractLsb' 2 10 = 0) :
    bitField (x.getLsbD 1) <<< 1 ||| bitField (x.getLsbD 0) = x := by
  apply BitVec.eq_of_getLsbD_eq
  intro k hk
  simp only [BitVec.getLsbD_or, BitVec.getLsbD_shiftLeft, bitField_getLsbD]
  match k with
  | 0 => simp
  | 1 => simp
  | k + 2 => simp [getLsbD_of_high_zero h (Nat.le_add_left 2 k) (by omega)]

/-- SECONDS, COLON and HOURS fill LA (R118). -/
theorem clockField_eq (x : Len) :
    (x.extractLsb' 6 6).setWidth 12 <<< 6 ||| bitField (x.getLsbD 5) <<< 5 ||| (x.extractLsb' 0 5).setWidth 12 = x := by
  apply BitVec.eq_of_getLsbD_eq
  intro k hk
  simp only [BitVec.getLsbD_or, BitVec.getLsbD_shiftLeft, bitField_getLsbD, BitVec.getLsbD_setWidth, BitVec.getLsbD_extractLsb']
  rcases Nat.lt_trichotomy k 5 with low | rfl | high
  · have inside : k < 6 ∧ k < 12 := by omega
    simp [inside, low]
  · simp
  · have inside : ¬ k < 6 ∧ ¬ k < 5 ∧ k - 6 < 6 ∧ 6 + (k - 6) = k ∧ k - 5 ≠ 0 ∧ k - 6 < 12 := by omega
    simp [inside, hk]

/-- The fields and the payload are those the encoder gives the instruction. -/
def EncodesTo (i : Instr) (f : Fields) (txp : List Byte) : Prop := fieldsOfInstr i = f ∧ i.txp = txp

section forms
variable {op : Byte} {la lb : Len} {txp : List Byte} {j : Instr}

theorem noOperand_encodesTo {i : Instr} (h : noOperand ⟨op, la, lb⟩ i = .ok j) (row : EncodesTo i ⟨op, 0, 0⟩ txp) :
    EncodesTo j ⟨op, la, lb⟩ txp := by
  obtain ⟨zero, rfl⟩ := whenZero_eq_ok_iff.1 h
  obtain ⟨rfl, rfl⟩ := of_decide_eq_true zero
  exact row

theorem lengthOperand_encodesTo {i : Len → Instr} (h : lengthOperand ⟨op, la, lb⟩ i = .ok j)
    (row : ∀ n, EncodesTo (i n) ⟨op, 0, n⟩ txp) : EncodesTo j ⟨op, la, lb⟩ txp := by
  obtain ⟨zero, rfl⟩ := whenZero_eq_ok_iff.1 h
  obtain rfl := of_decide_eq_true zero
  exact row lb

theorem byteOperand_encodesTo {i : Byte → Instr} (h : byteOperand ⟨op, la, lb⟩ i = .ok j)
    (row : ∀ b, EncodesTo (i b) ⟨op, 0, b.setWidth 12⟩ txp) : EncodesTo j ⟨op, la, lb⟩ txp := by
  obtain ⟨zero, rfl⟩ := whenZero_eq_ok_iff.1 h
  obtain ⟨rfl, high⟩ := of_decide_eq_true zero
  have this := row (lb.extractLsb' 0 8)
  rwa [setWidth_extract_of_high_zero high rfl] at this

theorem bitOperand_encodesTo {i : Bool → Instr} (h : bitOperand ⟨op, la, lb⟩ i = .ok j)
    (row : ∀ b, EncodesTo (i b) ⟨op, 0, bitField b⟩ txp) : EncodesTo j ⟨op, la, lb⟩ txp := by
  obtain ⟨zero, rfl⟩ := whenZero_eq_ok_iff.1 h
  obtain ⟨rfl, high⟩ := of_decide_eq_true zero
  have this := row (lb.getLsbD 0)
  rwa [bitField_of_high_zero high] at this

theorem addrOperand_encodesTo
    (h : whenZero (decide (la = 0 ∧ lb.extractLsb' 2 10 = 0)) (.i2cAddr (lb.getLsbD 1) (lb.getLsbD 0) txp) = .ok j) :
    EncodesTo j ⟨0x1F#8, la, lb⟩ txp := by
  obtain ⟨zero, rfl⟩ := whenZero_eq_ok_iff.1 h
  obtain ⟨rfl, high⟩ := of_decide_eq_true zero
  exact ⟨congrArg (Fields.mk 0x1F#8 0) (addrField_of_high_zero high), rfl⟩

theorem iconOperand_encodesTo
    (h : whenZero (decide (la.extractLsb' 4 8 = 0 ∧ lb.extractLsb' 1 11 = 0))
      (.ctlSetIcon (la.extractLsb' 0 4) (lb.getLsbD 0) txp) = .ok j) : EncodesTo j ⟨0x37#8, la, lb⟩ txp := by
  obtain ⟨zero, rfl⟩ := whenZero_eq_ok_iff.1 h
  obtain ⟨highA, highB⟩ := of_decide_eq_true zero
  exact ⟨congrArg₂ (Fields.mk 0x37#8) (setWidth_extract_of_high_zero highA rfl) (bitField_of_high_zero highB), rfl⟩

theorem clockOperand_encodesTo
    (h : whenZero (decide (lb.extractLsb' 6 6 = 0))
      (.dpLedClock (la.extractLsb' 6 6) (la.getLsbD 5) (la.extractLsb' 0 5) (lb.extractLsb' 0 6) txp) = .ok j) :
    EncodesTo j ⟨0x47#8, la, lb⟩ txp := by
  obtain ⟨zero, rfl⟩ := whenZero_eq_ok_iff.1 h
  have high := of_decide_eq_true zero
  exact ⟨congrArg₂ (Fields.mk 0x47#8) (clockField_eq la) (setWidth_extract_of_high_zero high rfl), rfl⟩

end forms

/-- What decodes is encoded as it stood: by the operand form of its row. -/
theorem encodesTo_of_decodeFields {f : Fields} {txp : List Byte} {j : Instr} (h : decodeFields f txp = .ok j) :
    EncodesTo j f txp := by
  obtain ⟨op, la, lb⟩ := f
  unfold decodeFields at h
  split at h
  case h_56 => cases h
  all_goals
    rename_i hop
    obtain rfl : op = _ := hop
  case h_1 | h_4 | h_15 | h_18 =>
    cases h
    exact ⟨rfl, rfl⟩
  case h_2 | h_5 | h_16 | h_19 | h_35 | h_36 | h_37 | h_51 | h_52 | h_53 =>
    exact lengthOperand_encodesTo h fun _ => ⟨rfl, rfl⟩
  case h_6 | h_12 | h_20 | h_25 | h_29 | h_41 | h_49 => exact byteOperand_encodesTo h fun _ => ⟨rfl, rfl⟩
  case h_9 | h_13 | h_23 | h_31 => exact bitOperand_encodesTo h fun _ => ⟨rfl, rfl⟩
  case h_14 => exact addrOperand_encodesTo h
  case h_34 => exact iconOperand_encodesTo h
  case h_50 => exact clockOperand_encodesTo h
  all_goals exact noOperand_encodesTo h ⟨rfl, rfl⟩

/-- Settles O2: the fields of a legal word are those of its instruction, and they make up the word. -/
theorem encodeOfDecode : Obligations.EncodeOfDecode := by
  intro c i h
  obtain ⟨fields, payload⟩ := encodesTo_of_decodeFields h
  rw [encode, fields, payload, wordOfFields_fieldsOfWord]

/-! The payload is no part of the word. -/

/-- The same command with another payload. -/
def Instr.withPayload (txp : List Byte) (i : Instr) : Instr :=
  match i with
  | .i2cReadCmdData m n _ => .i2cReadCmdData m n txp
  | .i2cReadData n _ => .i2cReadData n txp
  | .i2cReadByte _ => .i2cReadByte txp
  | .i2cWriteCmdData m n _ => .i2cWriteCmdData m n txp
  | .i2cWriteData n _ => .i2cWriteData n txp
  | .i2cWriteByte b _ => .i2cWriteByte b txp
  | .i2cStart _ => .i2cStart txp
  | .i2cStop _ => .i2cStop txp
  | .i2cTxBit bit _ => .i2cTxBit bit txp
  | .i2cRxBit _ => .i2cRxBit txp
  | .i2cAckPoll _ => .i2cAckPoll txp
  | .i2cTxByte b _ => .i2cTxByte b txp
  | .i2cRxByte ack _ => .i2cRxByte ack txp
  | .i2cAddr combined rw _ => .i2cAddr combined rw txp
  | .twReadCmdData m n _ => .twReadCmdData m n txp
  | .twReadData n _ => .twReadData n txp
  | .twReadByte _ => .twReadByte txp
  | .twWriteCmdData m n _ => .twWriteCmdData m n txp
  | .twWriteData n _ => .twWriteData n txp
  | .twWriteByte b _ => .twWriteByte b txp
  | .twBegin _ => .twBegin txp
  | .twEnd _ => .twEnd txp
  | .twTxBit bit _ => .twTxBit bit txp
  | .twRxBit _ => .twRxBit txp
  | .twTxByte b _ => .twTxByte b txp
  | .twRxByte _ => .twRxByte txp
  | .ctlInit _ => .ctlInit txp
  | .ctlGetBrightness _ => .ctlGetBrightness txp
  | .ctlSetBrightness level _ => .ctlSetBrightness level txp
  | .ctlGetPower _ => .ctlGetPower txp
  | .ctlSetPower on _ => .ctlSetPower on txp
  | .ctlGetDescriptor _ => .ctlGetDescriptor txp
  | .ctlSetDescriptor _ => .ctlSetDescriptor txp
  | .ctlSetIcon id on _ => .ctlSetIcon id on txp
  | .ctlReadRaw n _ => .ctlReadRaw n txp
  | .ctlWriteRaw n _ => .ctlWriteRaw n txp
  | .ctlWriteDisplayFrame size _ => .ctlWriteDisplayFrame size txp
  | .ctlSetOrder _ => .ctlSetOrder txp
  | .ctlSetIndicatorMask _ => .ctlSetIndicatorMask txp
  | .ctlGetMode _ => .ctlGetMode txp
  | .ctlSetMode mode _ => .ctlSetMode mode txp
  | .ctlReloadDefaults _ => .ctlReloadDefaults txp
  | .dpTranspose8 _ => .dpTranspose8 txp
  | .dpScatter _ => .dpScatter txp
  | .dpXfDirect _ => .dpXfDirect txp
  | .dpXfTransposed _ => .dpXfTransposed txp
  | .dpXfNarrow5 _ => .dpXfNarrow5 txp
  | .dpXfMuxext _ => .dpXfMuxext txp
  | .dpCharToMask code _ => .dpCharToMask code txp
  | .dpLedClock seconds colon hours minutes _ => .dpLedClock seconds colon hours minutes txp
  | .oledCmd n _ => .oledCmd n txp
  | .oledData n _ => .oledData n txp
  | .oledWindow n _ => .oledWindow n txp
  | .oledClear _ => .oledClear txp
  | .miscGetVersion _ => .miscGetVersion txp

theorem fieldsOfInstr_withPayload (txp : List Byte) (i : Instr) : fieldsOfInstr (i.withPayload txp) = fieldsOfInstr i := by
  cases i <;> rfl

theorem payloadLength_withPayload (txp : List Byte) (i : Instr) : (i.withPayload txp).payloadLength = i.payloadLength := by
  cases i <;> rfl

theorem txp_withPayload (txp : List Byte) (i : Instr) : (i.withPayload txp).txp = txp := by
  cases i <;> rfl

/-- The word of a command stands for the same command whatever payload it comes with (R110, R111). -/
theorem decode_withPayload (txp : List Byte) (i : Instr) : decode ⟨(encode i).cw, txp⟩ = .ok (i.withPayload txp) := by
  have whole := decodeOfEncode (i.withPayload txp)
  rwa [encode, fieldsOfInstr_withPayload, txp_withPayload] at whole

theorem payloadLengthOfWord_encode (i : Instr) : payloadLengthOfWord (encode i).cw = i.payloadLength := by
  rw [payloadLengthOfWord, decode_withPayload]
  exact payloadLength_withPayload [] i

/-- Settles O3: the word asks for the length of the payload, which is the head of the stream. -/
theorem payloadIsFixedByTheWord : Obligations.PayloadIsFixedByTheWord := by
  intro i rest formed
  have length : i.txp.length = i.payloadLength := of_decide_eq_true formed
  have head : (i.txp ++ rest).take i.payloadLength = i.txp := List.take_left' length
  have tail : (i.txp ++ rest).drop i.payloadLength = rest := List.drop_left' length
  have whole : decode ⟨(encode i).cw, i.txp⟩ = .ok i := decodeOfEncode i
  rw [decodeStream, payloadLengthOfWord_encode, head, tail, whole]

/-- Settles O5: the word of a command written out is the encoder's, and it decodes to the command. -/
theorem encodingExamples : Obligations.EncodingExamples :=
  ⟨decodeOfEncode (.i2cWriteCmdData 1 2 [0x00, 0xAE, 0xAF]), decodeOfEncode (.twWriteByte 0x8F []),
    decodeOfEncode (.ctlSetIcon Machine.iconColon true []), decodeOfEncode (.dpLedClock 0 true 9 5 []),
    decodeOfEncode (.i2cAddr true true [])⟩

end Sys2Proof
end

section
/-! PROOFS, family other: the machine. Every command is its checks and a body; what the bodies do, `exec_cases` says once, and the
statements about all commands are read off it (60_exceptions.md R405, R408; 10_state.md). -/

namespace Sys2Proof.Machine

set_option Elab.async false

/-! A command is its checks and a body. -/

theorem twTurned_finishes {x : TwDir} {body : State → Result} {s : State} (h : ∀ u, ∃ t, body u = .next t) :
    ∃ t, twTurned x body s = .next t := by
  unfold twTurned
  split
  · exact h _
  · exact ⟨_, rfl⟩

theorem onOled_finishes {effect : Rev → State → Result} {s : State} (h : ∀ r, ∃ t, effect r s = .next t) :
    ∃ t, onOled effect s = .next t := by
  unfold onOled
  split
  · exact h _
  · exact h _
  · exact ⟨_, rfl⟩
  · exact ⟨_, rfl⟩
  · exact ⟨_, rfl⟩

/-- A check of an operand. -/
theorem ite_finishes {p : Prop} [Decidable p] {a b : Result} (ha : ∃ t, a = .next t) (hb : ∃ t, b = .next t) :
    ∃ t, (if p then a else b) = .next t := by
  split
  · exact ha
  · exact hb

/-- Every command is the check of its bus state, the check of its payload's length, and a body (R408). No body but one can be
refused, and that one only where its frame goes to the rendering engine (R410, R413). -/
theorem exec_eq_command (i : Instr) (s : State) :
    ∃ body, exec i s = command (busReady i s) i.payloadLength i.txp body s ∧
      ((i.mnemonic = "CTL.WRITE_DISPLAY_FRAME" → s.ctlr.active = .led ∨ s.ctlr.active = .dummy) →
        ∃ t, body (begin s) = .next t) := by
  cases i with
  | ctlWriteRaw n txp =>
    simp only [exec, execCtlWriteRaw, controller]
    refine ⟨_, rfl, fun _ => ite_finishes ⟨_, rfl⟩ ?_⟩
    split <;> exact ⟨_, rfl⟩
  | ctlWriteDisplayFrame n txp =>
    simp only [exec, execCtlWriteDisplayFrame, controller]
    refine ⟨_, rfl, fun frame => ite_finishes ⟨_, rfl⟩ ?_⟩
    rw [begin_ctlr]
    rcases frame rfl with active | active <;> rw [active] <;> exact ⟨_, rfl⟩
  | i2cReadCmdData | i2cReadData | i2cReadByte | i2cWriteCmdData | i2cWriteData | i2cWriteByte =>
    simp only [exec, execI2cReadCmdData, execI2cReadData, execI2cReadByte, execI2cWriteCmdData, execI2cWriteData,
      execI2cWriteByte, i2cCapability]
    exact ⟨_, rfl, fun _ => ⟨_, rfl⟩⟩
  | i2cStart =>
    simp only [exec, execI2cStart]
    exact ⟨_, rfl, fun _ => ⟨_, rfl⟩⟩
  | i2cStop | i2cTxBit | i2cRxBit | i2cAckPoll | i2cTxByte | i2cRxByte | i2cAddr =>
    simp only [exec, execI2cStop, execI2cTxBit, execI2cRxBit, execI2cAckPoll, execI2cTxByte, execI2cRxByte,
      execI2cAddr, i2cPrimitive]
    exact ⟨_, rfl, fun _ => ⟨_, rfl⟩⟩
  | twReadCmdData | twReadData | twReadByte | twWriteCmdData | twWriteData | twWriteByte =>
    simp only [exec, execTwReadCmdData, execTwReadData, execTwReadByte, execTwWriteCmdData, execTwWriteData,
      execTwWriteByte, twCapability]
    exact ⟨_, rfl, fun _ => ⟨_, rfl⟩⟩
  | twBegin =>
    simp only [exec, execTwBegin]
    exact ⟨_, rfl, fun _ => ⟨_, rfl⟩⟩
  | twEnd =>
    simp only [exec, execTwEnd, twPrimitive]
    exact ⟨_, rfl, fun _ => ⟨_, rfl⟩⟩
  | twTxBit | twRxBit =>
    simp only [exec, execTwTxBit, execTwRxBit, twBitPrimitive]
    exact ⟨_, rfl, fun _ => twTurned_finishes fun _ => ⟨_, rfl⟩⟩
  | twTxByte | twRxByte =>
    simp only [exec, execTwTxByte, execTwRxByte, twBytePrimitive]
    exact ⟨_, rfl, fun _ => twTurned_finishes fun _ => ⟨_, rfl⟩⟩
  | ctlInit | ctlGetBrightness | ctlGetPower | ctlSetPower | ctlGetDescriptor | ctlSetIcon | ctlReadRaw |
    ctlSetIndicatorMask | ctlGetMode | ctlSetMode | ctlReloadDefaults =>
    simp only [exec, execCtlInit, execCtlGetBrightness, execCtlGetPower, execCtlSetPower, execCtlGetDescriptor,
      execCtlSetIcon, execCtlReadRaw, execCtlSetIndicatorMask, execCtlGetMode, execCtlSetMode, execCtlReloadDefaults,
      controller]
    exact ⟨_, rfl, fun _ => ⟨_, rfl⟩⟩
  | ctlSetBrightness | ctlSetDescriptor | ctlSetOrder =>
    simp only [exec, execCtlSetBrightness, execCtlSetDescriptor, execCtlSetOrder, controller]
    exact ⟨_, rfl, fun _ => ite_finishes ⟨_, rfl⟩ ⟨_, rfl⟩⟩
  | dpTranspose8 | dpScatter | dpXfDirect | dpXfTransposed | dpXfNarrow5 | dpXfMuxext | dpCharToMask =>
    simp only [exec, execDpTranspose8, execDpScatter, execDpXfDirect, execDpXfTransposed, execDpXfNarrow5,
      execDpXfMuxext, execDpCharToMask, datapath]
    exact ⟨_, rfl, fun _ => ⟨_, rfl⟩⟩
  | dpLedClock =>
    simp only [exec, execDpLedClock, datapath]
    exact ⟨_, rfl, fun _ => ite_finishes ⟨_, rfl⟩ ⟨_, rfl⟩⟩
  | oledCmd | oledData | oledClear =>
    simp only [exec, execOledCmd, execOledData, execOledClear, controller]
    exact ⟨_, rfl, fun _ => onOled_finishes fun _ => ⟨_, rfl⟩⟩
  | oledWindow =>
    simp only [exec, execOledWindow, controller]
    exact ⟨_, rfl, fun _ => onOled_finishes fun _ => ite_finishes (ite_finishes ⟨_, rfl⟩ ⟨_, rfl⟩) ⟨_, rfl⟩⟩
  | miscGetVersion =>
    simp only [exec, execMiscGetVersion, controller]
    exact ⟨_, rfl, fun _ => ⟨_, rfl⟩⟩

/-- Settles O10: the bus state is checked before anything else. -/
theorem sequencingIsCheckedFirst : Obligations.SequencingIsCheckedFirst := by
  intro i s busy
  obtain ⟨body, checks, -⟩ := exec_eq_command i s
  rw [checks, command_seq busy]

/-- Settles O11: in the right bus state the payload is checked next. -/
theorem payloadLengthIsCheckedSecond : Obligations.PayloadLengthIsCheckedSecond := by
  intro i s ready malformed
  obtain ⟨body, checks, -⟩ := exec_eq_command i s
  have length : i.txp.length ≠ i.payloadLength := fun h => malformed (decide_eq_true h)
  rw [checks, command_length ready length]

/-- A command ends, but for the one the rules make refuse (R410, R413). -/
theorem exec_finishes {i : Instr} {s : State}
    (frame : i.mnemonic = "CTL.WRITE_DISPLAY_FRAME" → s.ctlr.active = .led ∨ s.ctlr.active = .dummy) :
    ∃ t, exec i s = .next t := by
  obtain ⟨body, checks, finishes⟩ := exec_eq_command i s
  rw [checks, command]
  exact ite_finishes (ite_finishes (finishes frame) ⟨_, rfl⟩) ⟨_, rfl⟩

theorem TurnedAway.eq_rejected {s t : State} (h : TurnedAway s t) : t = rejected t.status.rc s := by
  obtain ⟨rc, -, -, rfl⟩ := h
  rfl

/-- Settles O12: a command that ran has OK or ACKF. -/
theorem turnedAwayCommandsChangeNothing : Obligations.TurnedAwayCommandsChangeNothing := by
  intro i s t next away
  rcases exec_cases next with rejected | ⟨-, -, -, u, bytes, rc, kept, -, rfl, -⟩
  · exact rejected.eq_rejected
  · exact absurd (kept.symm.trans away) Bool.false_ne_true

/-- What every command leaves: SEQ, RC, the parameters, the host's inputs and the refusal mark (R405). -/
theorem exec_leaves {i : Instr} {s t : State} (next : exec i s = .next t) :
    t.seq = .ready ∧ t.status.rc ≠ .illegal ∧ t.par = s.par ∧ t.env.inbox = s.env.inbox ∧ t.refused = s.refused := by
  rcases exec_cases next with ⟨rc, -, named, rfl⟩ | ⟨-, -, -, u, bytes, rc, kept, moves, rfl, -⟩
  · exact ⟨rfl, named, rfl, rfl, rfl⟩
  · obtain ⟨-, par, inbox, refused, -⟩ := moves.keeps
    obtain ⟨env, -, -, -, parPrepared, -, -, refusedPrepared, -⟩ := prepared_keeps i (begin s)
    refine ⟨rfl, ?_, par.trans parPrepared, inbox.trans (congrArg Env.inbox env), refused.trans refusedPrepared⟩
    rintro rfl
    cases kept

/-- Settles O13: a command that ends leaves what every command leaves. -/
theorem everyCommandFinishes : Obligations.EveryCommandFinishes := by
  intro i s frame
  obtain ⟨t, next⟩ := exec_finishes frame
  exact ⟨t, next, exec_leaves next⟩

/-! The step. -/

/-- Settles O6: the word at the port decodes to the command that runs. -/
theorem stepRunsTheDecodedCommand : Obligations.StepRunsTheDecodedCommand := by
  intro s c rest i ready running port decoded
  rw [step_command ready running port, runCommand, decoded]

theorem step_idle {s : State} (running : s.refused = false) (port : s.env.inbox = []) : step s = .next s := by
  simp [step, takeInput, running, port]

theorem step_reset {s : State} {rest : List HostInput} (ready : s.seq = .ready) (running : s.refused = false)
    (port : s.env.inbox = .reset :: rest) :
    step s = .next { State.resetWith s.par with env := { s.env with inbox := rest } } := by
  simp [step, takeInput, hostReset, dropInput, ready, running, port]

/-- Settles O8: the two steps that run no command. -/
theorem idleAndResetSteps : Obligations.IdleAndResetSteps :=
  ⟨fun _ => step_idle, fun _ _ => step_reset⟩

end Sys2Proof.Machine
end

section
/-! PROOFS, family other: the invariant. `exec_cases` gives a command's register writes and then its engine steps; the writes keep
the registers legal, the steps keep the engines at rest or in step with their bus state (10_state.md; 41_i2c.md R182; 70 R451). -/

namespace Sys2Proof.Machine

set_option Elab.async false

/-! What the engine steps of a command keep. -/

theorem unitOf_of_initialises {i : Instr} (h : initialises i = true) : unitOf i = 3 := by
  cases i <;> first | rfl | cases h

/-- Only the commands of INIT change the configuration and the controller registers in their bus steps. -/
theorem Moves.quiet {i : Instr} {s t : State} (h : Moves i s t) (quiet : initialises i = false) :
    t.cfg = s.cfg ∧ t.ctlr = s.ctlr := by
  unfold Moves at h
  split at h
  case h_1 | h_2 => exact ⟨h.1.effect.cfg, h.1.effect.ctlr⟩
  case h_3 =>
    rw [quiet] at h
    exact ⟨h.effect.cfg, h.effect.ctlr⟩
  case h_4 => exact ⟨h.effect.cfg, h.effect.ctlr⟩
  case h_5 =>
    subst h
    exact ⟨rfl, rfl⟩

theorem Moves.initialised {i : Instr} {s t : State} (h : Moves i s t) (init : initialises i = true) : InitSteps s t := by
  rw [Moves, unitOf_of_initialises init] at h
  simpa only [init, if_true] using h

/-- INIT and every other command keep all of I2CCFG but the address and its mode, and all controller registers but ACTIVE. -/
theorem Moves.registers {i : Instr} {s t : State} (h : Moves i s t) :
    t.ctlr = { s.ctlr with active := t.ctlr.active } ∧
      t.cfg.i2c = { s.cfg.i2c with addr := t.cfg.i2c.addr, amode := t.cfg.i2c.amode } := by
  cases init : initialises i
  · obtain ⟨cfg, ctlr⟩ := h.quiet init
    rw [cfg, ctlr]
    exact ⟨rfl, rfl⟩
  · exact ⟨(h.initialised init).ctlr, (h.initialised init).i2c⟩

theorem Moves.dpLegal {i : Instr} {s t : State} (h : Moves i s t) (legal : DpLegal s) : DpLegal t := by
  unfold Moves at h
  split at h
  case h_1 | h_2 => exact h.1.legal legal
  case h_3 =>
    split at h
    · exact h.legal legal
    · exact h.legal legal
  case h_4 => exact h.legal legal
  case h_5 => exact h ▸ legal

theorem Rested.i2cFits {s : State} (h : Rested s) : I2cFits s := i2cFits_closed s h.1

theorem Rested.twFits {s : State} (h : Rested s) : TwFits s := by
  obtain ⟨-, frame, dir, boundary, dio⟩ := h
  exact ⟨fun _ => ⟨dir, boundary⟩, fun _ => dio⟩

/-- The bus state and the lines of both engines fit after a command's steps. -/
theorem Moves.fits {i : Instr} {s t : State} (h : Moves i s t) (i2c : I2cFits s) (tw : TwFits s)
    (rested : unitOf i = 3 ∨ unitOf i = 5 → Rested s) : I2cFits t ∧ TwFits t := by
  unfold Moves at h
  split at h <;> rename_i unit
  · exact ⟨h.2 i2c, by rw [TwFits, h.1.tws]; exact tw⟩
  · exact ⟨by rw [I2cFits, h.1.i2cs]; exact i2c, h.2 tw⟩
  · have after : Rested t := by
      split at h
      · exact h.rested (rested (.inl unit))
      · exact h.rested (rested (.inl unit))
    exact ⟨after.i2cFits, after.twFits⟩
  · have after : Rested t := h.rested (rested (.inr unit))
    exact ⟨after.i2cFits, after.twFits⟩
  · exact h ▸ ⟨i2c, tw⟩

/-! The registers. -/

/-- The part of the invariant that speaks of the configuration and of DESC, LAYOUT and BRIGHT. -/
structure RegistersLegal (s : State) : Prop where
  order : s.cfg.i2c.lsbf = s.par.i2c.lsbf ∧ s.cfg.i2c.aord = s.par.i2c.aord
  delays : s.cfg.i2c.td = s.par.i2c.td ∧ s.cfg.i2c.tack = s.par.i2c.tack ∧ s.cfg.td3 = s.par.td3w
  layout : s.ctlr.layout = layoutOf s.par s.ctlr.desc
  type : (descType s.ctlr.desc).toNat < s.par.numTypes ∨ s.ctlr.desc = s.par.defaultDesc
  bright : (∀ b, levels s.par b = 8) → s.par.brightReset.toNat < 8 → s.ctlr.bright.toNat < 8

theorem Inv.registers {s : State} (h : Inv s) : RegistersLegal s :=
  ⟨h.order_fixed, h.delays_fixed, h.layout_selected, h.type_legal, h.bright_legal⟩

theorem descType_descOfBytes (txp : List Byte) : descType (descOfBytes txp) = txpByte txp 0 := by
  unfold descType descOfBytes
  ext k hk
  simp [show k < 8 from hk, show k < 16 by omega, show k < 24 by omega, show k < 32 by omega]

/-- The register writes of a command with legal operands keep the registers legal. -/
theorem prepared_registersLegal {i : Instr} {s : State} (h : RegistersLegal s) (legal : legalOperands i s) :
    RegistersLegal (prepared i s) := by
  obtain ⟨order, delays, layout, type, bright⟩ := h
  cases i with
  | ctlSetBrightness l txp =>
    refine ⟨order, delays, layout, type, fun eight _ => ?_⟩
    exact (show l.toNat < levels s.par s.ctlr.active from legal).trans_eq (eight s.ctlr.active)
  | ctlSetDescriptor txp =>
    refine ⟨order, delays, rfl, .inl ?_, bright⟩
    rw [prepared, setDesc_ctlr, descType_descOfBytes]
    exact legal
  | ctlReloadDefaults txp =>
    exact ⟨⟨rfl, rfl⟩, ⟨rfl, rfl, delays.2.2⟩, rfl, .inr rfl, fun _ reset => reset⟩
  | ctlWriteRaw n txp =>
    simp only [prepared]
    split <;> exact ⟨order, delays, layout, type, bright⟩
  | ctlWriteDisplayFrame n txp =>
    simp only [prepared]
    split <;> exact ⟨order, delays, layout, type, bright⟩
  | _ => exact ⟨order, delays, layout, type, bright⟩

theorem Moves.registersLegal {i : Instr} {s t : State} (h : Moves i s t) (legal : RegistersLegal s) : RegistersLegal t := by
  obtain ⟨-, par, -, -, -, -, td3⟩ := h.keeps
  obtain ⟨ctlr, i2c⟩ := h.registers
  obtain ⟨order, delays, layout, type, bright⟩ := legal
  refine ⟨?_, ?_, ?_, ?_, ?_⟩
  · rw [par, i2c]
    exact order
  · rw [par, i2c, td3]
    exact delays
  · rw [par, ctlr]
    exact layout
  · rw [par, ctlr]
    exact type
  · rw [par, ctlr]
    exact bright

/-- A command that runs no INIT leaves DESC and ACTIVE; one that does selects the backend anew. -/
theorem prepared_active {i : Instr} (s : State) (quiet : initialises i = false) :
    (prepared i s).ctlr.active = s.ctlr.active ∧ (prepared i s).ctlr.desc = s.ctlr.desc := by
  cases i with
  | ctlSetDescriptor txp => cases quiet
  | ctlReloadDefaults txp => cases quiet
  | ctlWriteRaw n txp =>
    simp only [prepared]
    split <;> exact ⟨rfl, rfl⟩
  | ctlWriteDisplayFrame n txp =>
    simp only [prepared]
    split <;> exact ⟨rfl, rfl⟩
  | _ => exact ⟨rfl, rfl⟩

/-- ACTIVE is the backend of DESC, or DUMMY (10_state.md R53). -/
def ActiveSelected (s : State) : Prop := s.ctlr.active = backendOf s.par s.ctlr.desc ∨ s.ctlr.active = .dummy

theorem Moves.activeSelected {i : Instr} {s t : State} (h : Moves i (prepared i s) t) (selected : ActiveSelected s) :
    ActiveSelected t := by
  obtain ⟨-, par, -⟩ := h.keeps
  rw [ActiveSelected, par]
  cases init : initialises i
  · obtain ⟨-, ctlr⟩ := h.quiet init
    obtain ⟨active, desc⟩ := prepared_active s init
    obtain ⟨-, -, -, -, parPrepared, -⟩ := prepared_keeps i s
    rw [ctlr, active, desc, parPrepared]
    exact selected
  · have steps := h.initialised init
    have desc : t.ctlr.desc = (prepared i s).ctlr.desc := by rw [steps.ctlr]
    rw [desc]
    exact steps.active

/-! The invariant. -/

/-- A controller or OLED command asks for both engines idle. -/
theorem busReady_controller {i : Instr} (s : State) (h : unitOf i = 3 ∨ unitOf i = 5) :
    busReady i s = (i2cIdle s && twIdle s) := by
  cases i <;> first | rfl | (rcases h with h | h <;> cases h)

theorem Inv.rested {s : State} (inv : Inv s) (idle : (i2cIdle s && twIdle s) = true) : Rested s := by
  obtain ⟨bus, frame⟩ : s.i2cs.bus = .idle ∧ s.tws.frame = .idle := by simpa using idle
  obtain ⟨sda, scl⟩ := inv.i2c_idle bus
  obtain ⟨dir, boundary⟩ := inv.tw_idle frame
  refine ⟨?_, frame, dir, boundary, inv.tw_released dir⟩
  calc s.i2cs = .mk s.i2cs.bus s.i2cs.sda s.i2cs.scl := rfl
    _ = i2cClosed := by rw [bus, sda, scl, i2cClosed]

theorem prepared_dpLegal {i : Instr} {s : State} (inv : Inv s) : DpLegal (prepared i (begin s)) := by
  have tack : (prepared i (begin s)).cfg.i2c.tack = s.cfg.i2c.tack := by
    cases i with
    | ctlReloadDefaults txp => exact inv.delays_fixed.2.1.symm
    | ctlWriteRaw n txp =>
      simp only [prepared]
      split <;> rfl
    | ctlWriteDisplayFrame n txp =>
      simp only [prepared]
      split <;> rfl
    | _ => rfl
  obtain ⟨-, -, -, dp, -⟩ := prepared_keeps i (begin s)
  rw [DpLegal, dp, tack]
  exact ⟨inv.bitcnt_legal, inv.tmocnt_legal⟩

theorem Inv.rejected {s : State} (inv : Inv s) (rc : RC) : Inv (rejected rc s) :=
  { inv with ready := rfl, rxq_bounded := fun _ => Nat.zero_le _ }

theorem exec_keeps_inv {i : Instr} {s t : State} (inv : Inv s) (next : exec i s = .next t) : Inv t := by
  rcases exec_cases next with away | ⟨ready, -, legal, u, bytes, rc, -, moves, rfl, few⟩
  · rw [away.eq_rejected]
    exact inv.rejected _
  · obtain ⟨env, i2cs, tws, dp, parPrepared, seq, rxqPrepared, refusedPrepared, status⟩ := prepared_keeps i (begin s)
    obtain ⟨-, par, -, refused, rxq, -, -⟩ := moves.keeps
    have rested : unitOf i = 3 ∨ unitOf i = 5 → Rested (prepared i (begin s)) := fun unit => by
      rw [Rested, i2cs, tws]
      exact inv.rested (by rw [← busReady_controller s unit]; exact ready)
    obtain ⟨i2cFits, twFits⟩ := moves.fits
      (by rw [I2cFits, i2cs]; exact ⟨inv.i2c_idle, inv.i2c_held⟩)
      (by rw [TwFits, tws]; exact ⟨inv.tw_idle, inv.tw_released⟩) rested
    have legalBegin : legalOperands i (begin s) := by
      cases i <;> exact legal
    obtain ⟨order, delays, layout, type, bright⟩ := inv.registers
    have registers := moves.registersLegal
      (prepared_registersLegal (s := begin s) ⟨order, delays, layout, type, bright⟩ legalBegin)
    obtain ⟨bitcnt, tmocnt⟩ := moves.dpLegal (prepared_dpLegal inv)
    exact
      { ready := rfl
        running := refused.trans (refusedPrepared.trans inv.running)
        i2c_idle := i2cFits.1
        i2c_held := i2cFits.2
        tw_idle := twFits.1
        tw_released := twFits.2
        order_fixed := registers.order
        delays_fixed := registers.delays
        bitcnt_legal := bitcnt
        tmocnt_legal := tmocnt
        rxq_bounded := fun version => by
          have empty : u.rxq = [] := rxq.trans rxqPrepared
          have samePar : u.par = s.par := par.trans parPrepared
          simpa [empty] using few (samePar ▸ version)
        layout_selected := registers.layout
        active_selected := moves.activeSelected inv.active_selected
        type_legal := registers.type
        bright_legal := registers.bright }

/-- Settles O14: each field is computed from the reset values. -/
theorem resetSatisfiesTheInvariant : Obligations.ResetSatisfiesTheInvariant := by
  intro p
  exact
    { ready := rfl
      running := rfl
      i2c_idle := fun _ => ⟨rfl, rfl⟩
      i2c_held := fun held => nomatch held
      tw_idle := fun _ => ⟨rfl, rfl⟩
      tw_released := fun _ => rfl
      order_fixed := ⟨rfl, rfl⟩
      delays_fixed := ⟨rfl, rfl, rfl⟩
      bitcnt_legal := Nat.zero_le _
      tmocnt_legal := Nat.zero_le _
      rxq_bounded := fun _ => Nat.zero_le _
      layout_selected := rfl
      active_selected := .inl rfl
      type_legal := .inr rfl
      bright_legal := fun _ reset => reset }

/-- The invariant does not speak of the environment. -/
theorem Inv.withEnv {s : State} (inv : Inv s) (env : Env) : Inv { s with env := env } := { inv with }

/-- Settles O15: an idle step changes nothing, a reset gives the reset values, an illegal word and a command keep the invariant. -/
theorem everyStepKeepsTheInvariant : Obligations.EveryStepKeepsTheInvariant := by
  intro s t inv next
  match port : s.env.inbox with
  | [] =>
    rw [step_idle inv.running port] at next
    cases next
    exact inv
  | .reset :: rest =>
    rw [step_reset inv.ready inv.running port] at next
    cases next
    exact (resetSatisfiesTheInvariant s.par).withEnv _
  | .command c :: rest =>
    rw [step_command inv.ready inv.running port] at next
    cases decoded : decode c with
    | ok i =>
      rw [runCommand, decoded] at next
      exact exec_keeps_inv (inv.withEnv _) next
    | error e =>
      rw [runCommand_of_decode_error decoded] at next
      cases next
      exact (inv.withEnv _).rejected _

end Sys2Proof.Machine
end

section
/-! PROOFS, family other: who writes what. A register changes in a command's writes or in its engine steps, and both say which
commands those are (10_state.md sections 6 and 7); the trace grows in the engine steps alone. -/

namespace Sys2Proof.Machine

set_option Elab.async false

/-! The register writes, by register. -/

/-- A frame write lays out WBUF and writes no other register. -/
theorem prepared_frameWrite_cfg (s : State) (b : Prop) [Decidable b] (raw : Frame) :
    (if b then layOut raw s else s).cfg = s.cfg ∧ (if b then layOut raw s else s).ctlr = s.ctlr := by
  split <;> exact ⟨rfl, rfl⟩

theorem prepared_td3 (i : Instr) (s : State) : (prepared i s).cfg.td3 = s.cfg.td3 := by
  cases i with
  | ctlWriteRaw n txp => rw [prepared, (prepared_frameWrite_cfg ..).1]
  | ctlWriteDisplayFrame n txp => rw [prepared, (prepared_frameWrite_cfg ..).1]
  | _ => rfl

/-- Which command may write I2CCFG before its bus steps, and which WBUF. -/
theorem prepared_writers (i : Instr) (s : State) :
    ((prepared i s).cfg ≠ s.cfg → i.mnemonic = "CTL.RELOAD_DEFAULTS") ∧
    ((prepared i s).wbuf ≠ s.wbuf → i.mnemonic ∈ ["CTL.WRITE_RAW", "CTL.WRITE_DISPLAY_FRAME"]) := by
  cases i with
  | ctlWriteRaw n txp =>
    rw [prepared, (prepared_frameWrite_cfg ..).1]
    exact ⟨absurd rfl, fun _ => by simp [Instr.mnemonic]⟩
  | ctlWriteDisplayFrame n txp =>
    rw [prepared, (prepared_frameWrite_cfg ..).1]
    exact ⟨absurd rfl, fun _ => by simp [Instr.mnemonic]⟩
  | ctlReloadDefaults txp => exact ⟨fun _ => rfl, absurd rfl⟩
  | _ => exact ⟨absurd rfl, absurd rfl⟩

/-- Which commands may write each controller register before their bus steps. -/
theorem prepared_ctlr_writers (i : Instr) (s : State) :
    ((prepared i s).ctlr.bright ≠ s.ctlr.bright → i.mnemonic ∈ ["CTL.SET_BRIGHTNESS", "CTL.RELOAD_DEFAULTS"]) ∧
    ((prepared i s).ctlr.power ≠ s.ctlr.power → i.mnemonic ∈ ["CTL.SET_POWER", "CTL.RELOAD_DEFAULTS"]) ∧
    ((prepared i s).ctlr.mode ≠ s.ctlr.mode → i.mnemonic ∈ ["CTL.SET_MODE", "CTL.RELOAD_DEFAULTS"]) ∧
    ((prepared i s).ctlr.order ≠ s.ctlr.order → i.mnemonic ∈ ["CTL.SET_ORDER", "CTL.RELOAD_DEFAULTS"]) ∧
    ((prepared i s).ctlr.icon ≠ s.ctlr.icon →
      i.mnemonic ∈ ["CTL.SET_ICON", "CTL.SET_INDICATOR_MASK", "CTL.RELOAD_DEFAULTS"]) ∧
    ((prepared i s).ctlr.desc ≠ s.ctlr.desc ∨ (prepared i s).ctlr.layout ≠ s.ctlr.layout →
      i.mnemonic ∈ ["CTL.SET_DESCRIPTOR", "CTL.RELOAD_DEFAULTS"]) := by
  cases i with
  | ctlSetBrightness l txp => simp [prepared, Instr.mnemonic]
  | ctlSetPower on txp => simp [prepared, Instr.mnemonic]
  | ctlSetMode v txp => simp [prepared, Instr.mnemonic]
  | ctlSetOrder txp => simp [prepared, setOrder, Instr.mnemonic]
  | ctlSetIcon id on txp => simp [prepared, Instr.mnemonic]
  | ctlSetIndicatorMask txp => simp [prepared, Instr.mnemonic]
  | ctlSetDescriptor txp => simp [prepared, setDesc, Instr.mnemonic]
  | ctlReloadDefaults txp => simp [Instr.mnemonic]
  | ctlWriteRaw n txp => simp [prepared, prepared_frameWrite_cfg]
  | ctlWriteDisplayFrame n txp => simp [prepared, prepared_frameWrite_cfg]
  | _ => simp [prepared]

theorem mnemonic_of_initialises {i : Instr} (h : initialises i = true) :
    i.mnemonic ∈ ["CTL.INIT", "CTL.SET_DESCRIPTOR", "CTL.RELOAD_DEFAULTS"] := by
  cases i with
  | ctlInit txp => simp [Instr.mnemonic]
  | ctlSetDescriptor txp => simp [Instr.mnemonic]
  | ctlReloadDefaults txp => simp [Instr.mnemonic]
  | _ => cases h

theorem prepared_cfg {i : Instr} (s : State) (quiet : initialises i = false) : (prepared i s).cfg = s.cfg := by
  by_contra changed
  have reload := (prepared_writers i s).1 changed
  cases i <;> simp [Instr.mnemonic, initialises] at reload quiet

/-! The engine steps, by register. -/

/-- The engine registers move with the units that own them. -/
theorem Moves.engines {i : Instr} {s t : State} (h : Moves i s t) :
    (t.i2cs ≠ s.i2cs → unitOf i = 1 ∨ unitOf i = 3 ∨ unitOf i = 5) ∧
    (t.tws ≠ s.tws → unitOf i = 2 ∨ unitOf i = 3 ∨ unitOf i = 5) ∧
    (t.dp ≠ s.dp → unitOf i ≠ 4 ∧ unitOf i ≠ 6) := by
  unfold Moves at h
  split at h <;> rename_i unit
  · rw [h.1.tws, unit]
    simp
  · rw [h.1.i2cs, unit]
    simp
  · rw [unit]
    simp
  · rw [unit]
    simp
  · subst h
    simp

/-- ACTIVE and the applied address change only where INIT runs. -/
theorem Moves.address {i : Instr} {s t : State} (h : Moves i (prepared i s) t)
    (changed : t.ctlr.active ≠ s.ctlr.active ∨ t.cfg.i2c.addr ≠ s.cfg.i2c.addr ∨ t.cfg.i2c.amode ≠ s.cfg.i2c.amode) :
    initialises i = true := by
  by_contra quiet
  have quiet : initialises i = false := by simpa using quiet
  obtain ⟨cfg, ctlr⟩ := h.quiet quiet
  rw [cfg, ctlr, (prepared_active s quiet).1, prepared_cfg s quiet] at changed
  simp at changed

/-- Settles O16: a command that is turned away writes none of them; one that runs, its writes and its engine steps do. -/
theorem onlyTheListedCommandsWriteEachRegister : Obligations.OnlyTheListedCommandsWriteEachRegister := by
  intro i s t next
  rcases exec_cases next with away | ⟨-, -, -, u, bytes, rc, -, moves, rfl, -⟩
  · rw [away.eq_rejected]
    simp [rejected]
  · obtain ⟨-, i2cs, tws, dp, -⟩ := prepared_keeps i (begin s)
    obtain ⟨-, -, -, -, -, wbuf, td3⟩ := moves.keeps
    obtain ⟨ctlr, i2c⟩ := moves.registers
    obtain ⟨bright, power, mode, order, icon, desc⟩ := prepared_ctlr_writers i (begin s)
    obtain ⟨reload, frame⟩ := prepared_writers i (begin s)
    obtain ⟨i2csMoves, twsMoves, dpMoves⟩ := moves.engines
    rw [i2cs] at i2csMoves
    rw [tws] at twsMoves
    rw [dp] at dpMoves
    simp only [finished_ctlr, finished_cfg, finished_wbuf, finished_i2cs, finished_tws, finished_dp, emitAll_ctlr, emitAll_cfg,
      emitAll_wbuf, emitAll_i2cs, emitAll_tws, emitAll_dp]
    refine ⟨fun h => bright ?_, fun h => power ?_, fun h => mode ?_, fun h => order ?_, fun h => icon ?_, fun h => desc ?_,
      fun h => mnemonic_of_initialises (moves.address h), fun h => reload fun same => ?_, ?_, fun h => frame ?_,
      i2csMoves, twsMoves, dpMoves⟩
    · rwa [ctlr] at h
    · rwa [ctlr] at h
    · rwa [ctlr] at h
    · rwa [ctlr] at h
    · rwa [ctlr] at h
    · rwa [ctlr] at h
    · rw [i2c, same] at h
      simp at h
    · rw [td3, prepared_td3]
      rfl
    · rwa [wbuf] at h

/-! The trace. -/

theorem wireLevel_congr {s t : State} (i2cs : t.i2cs = s.i2cs) (tws : t.tws = s.tws) (p : Pin) :
    wireLevel t p = wireLevel s p := by
  cases p <;> simp only [wireLevel, i2cs, tws]

/-- Settles O17: the writes and the end of a command emit nothing and leave the lines alone; its engine steps do as `Moves.emits`
says. -/
theorem everyEventUpdatesItsLine : Obligations.EveryEventUpdatesItsLine := by
  intro i s t next
  rcases exec_cases next with away | ⟨-, -, -, u, bytes, rc, -, moves, rfl, -⟩
  · rw [away.eq_rejected]
    exact ⟨[], (List.append_nil _).symm, by simp, wireLevel_congr rfl rfl⟩
  · obtain ⟨env, i2cs, tws, -⟩ := prepared_keeps i (begin s)
    obtain ⟨es, trace, kinds, levels⟩ := moves.emits
    refine ⟨es, ?_, kinds, fun p => ?_⟩
    · rw [env] at trace
      simp [State.trace, trace]
    · rw [← wireLevel_congr (s := s) i2cs tws p, ← levels p]
      exact wireLevel_congr rfl rfl p

end Sys2Proof.Machine
end

section
/-! PROOFS, family other: the controller's commands past their checks, and the bus commands of each backend byte by byte, as the
rules write them (44_backends.md R349 to R366): the facts the statements about backends share. -/

namespace Sys2Proof.Machine

set_option Elab.async false

/-! Commands past their checks. -/

/-- CTL.SET_BRIGHTNESS with a level the backend has (R243). -/
theorem exec_ctlSetBrightness_idle {l : Byte} {s : State} (idle : bothIdle s) (level : l.toNat < levels s.par s.ctlr.active) :
    exec (.ctlSetBrightness l []) s = finishAck (sendBrightness (setBright l (begin s))) := by
  show execCtlSetBrightness l [] s = _
  rw [execCtlSetBrightness, controller_runs idle List.length_nil, begin_par, begin_ctlr, if_neg (Nat.not_le.mpr level)]

/-- CTL.SET_DESCRIPTOR of a type the panel table has is INIT from the state with DESC written (R247). -/
theorem exec_ctlSetDescriptor_idle {txp : List Byte} {s : State} (idle : bothIdle s) (length : txp.length = 4)
    (type : (txpByte txp 0).toNat < s.par.numTypes) :
    exec (.ctlSetDescriptor txp) s = exec (.ctlInit []) (setDesc (descOfBytes txp) s) := by
  have idleAfter : bothIdle (setDesc (descOfBytes txp) s) := idle
  rw [exec_ctlInit_idle idleAfter]
  show execCtlSetDescriptor txp s = _
  rw [execCtlSetDescriptor, controller_runs idle length, begin_par, if_neg (Nat.not_le.mpr type)]
  rfl

/-- CTL.RELOAD_DEFAULTS is INIT from the state with the defaults written (R256). -/
theorem exec_ctlReloadDefaults_idle {s : State} (idle : bothIdle s) :
    exec (.ctlReloadDefaults []) s = exec (.ctlInit []) (reloadDefaults s) := by
  have idleAfter : bothIdle (reloadDefaults s) := idle
  rw [exec_ctlInit_idle idleAfter]
  show execCtlReloadDefaults [] s = _
  rw [execCtlReloadDefaults, controller_runs idle List.length_nil]
  rfl

/-! The LCD's expander bytes in the default wiring (R351 to R353). -/

/-- The register bit of an expander byte. -/
def lcdRs (rs : Bool) : Byte := if rs then 0x01 else 0x00

/-- The backlight bit of an expander byte. -/
def lcdBl (power : Bool) : Byte := if power then 0x08 else 0x00

theorem lcdPort_default (power rs : Bool) (nib : BitVec 4) :
    lcdPort defaultLcdMap power nib rs = (nib.setWidth 8 <<< 4) ||| lcdBl power ||| lcdRs rs := by
  revert nib; cases power <;> cases rs <;> decide

theorem highNibble_shifted (b : Byte) : (b.extractLsb' 4 4).setWidth 8 <<< 4 = b &&& 0xF0 := by
  ext k hk
  interval_cases k <;> simp

theorem lowNibble_shifted (b : Byte) : (b.extractLsb' 0 4).setWidth 8 <<< 4 = b <<< 4 := by
  ext k hk
  interval_cases k <;> simp

theorem lcdWrite4_default {p : Params} (wiring : p.lcdMap = defaultLcdMap) (power rs : Bool) (nib : BitVec 4) :
    lcdWrite4 p power nib rs =
      .w [] [(nib.setWidth 8 <<< 4) ||| lcdBl power ||| lcdRs rs ||| 0x04,
        (nib.setWidth 8 <<< 4) ||| lcdBl power ||| lcdRs rs] := by
  rw [lcdWrite4, wiring, lcdPort_default]
  rfl

theorem lcdWrite8_default {p : Params} (wiring : p.lcdMap = defaultLcdMap) (power rs : Bool) (b : Byte) :
    lcdWrite8 p power b rs = lcdByteCmds p (lcdBl power) (lcdRs rs) b := by
  rw [lcdWrite8, lcdWrite4_default wiring, lcdWrite4_default wiring, highNibble_shifted, lowNibble_shifted]
  rfl

/-- A nibble of the bring-up, RS low (R354). -/
theorem lcdWrite4_bringUp {p : Params} (wiring : p.lcdMap = defaultLcdMap) (power : Bool) (nib : BitVec 4) (n : Byte)
    (byte : nib.setWidth 8 <<< 4 = n) :
    lcdWrite4 p power nib false = .w [] [n ||| lcdBl power ||| 0x04, n ||| lcdBl power] := by
  rw [lcdWrite4_default wiring, byte]
  simp [lcdRs]

theorem lcdDisplayControl_eq (on : Bool) : lcdDisplayControl on = if on then 0x0C else 0x08 := by
  cases on <;> rfl

/-! Bring-up and brightness (R346, R349, R354, R356, R358, R366). -/

theorem ledBrightByte_eq (l : Byte) (on : Bool) : ledBrightByte l on = (if on then 0x88 else 0x80) ||| (l &&& 0x07) := by
  cases on <;> rfl

theorem brightCmd_default {p : Params} (none : p.brightCmd = []) (power : Bool) (b : Backend) (l : Byte) (on : Bool) :
    brightCmd p power b l on = brightCmdDefault p power b l on := by
  simp [brightCmd, none]

/-- The brightness command of a backend, byte by byte (R349, R356, R366, R367). -/
theorem brightCmd_eq {p : Params} (none : p.brightCmd = []) (wiring : p.lcdMap = defaultLcdMap) (b : Backend) (l : Byte)
    (on : Bool) : brightCmd p on b l on = brightnessCmds p b l on := by
  rw [brightCmd_default none]
  cases b with
  | led => rw [brightCmdDefault, ledBrightByte_eq, brightnessCmds]
  | lcd =>
    rw [brightCmdDefault, lcdWrite8_default wiring, lcdDisplayControl_eq, wiring]
    cases on <;> rfl
  | oledA => rfl
  | oledB => rfl
  | dummy => rfl

theorem lcdInitCmds_eq {p : Params} (wiring : p.lcdMap = defaultLcdMap) (desc : BitVec 32) (bright : Byte) (on : Bool) :
    lcdInitCmds p on = bringUpCmds p .lcd desc bright on := by
  rw [lcdInitCmds, lcdDisplayControl_eq]
  simp only [lcdWrite8_default wiring, lcdWrite4_bringUp wiring on 0x3 0x30 rfl, lcdWrite4_bringUp wiring on 0x2 0x20 rfl]
  rfl

theorem oledInit_default {p : Params} (none : p.oledInit = []) (r : Rev) (desc : BitVec 32) (bright : Byte) :
    oledInit p r desc bright = oledInitDefault p r desc bright := by
  simp [oledInit, none]

theorem oledBringUp_a {p : Params} (none : p.oledInit = []) (desc : BitVec 32) (bright : Byte) (on : Bool) :
    oledCmd (oledInit p .a desc bright) :: oledClear p .a = bringUpCmds p .oledA desc bright on := by
  rw [oledInit_default none]
  rfl

theorem oledBringUp_b {p : Params} (none : p.oledInit = []) (desc : BitVec 32) (bright : Byte) (on : Bool) :
    oledCmd (oledInit p .b desc bright) :: oledClear p .b = bringUpCmds p .oledB desc bright on := by
  rw [oledInit_default none]
  rfl

/-- The bring-up of a backend that is not an LED over TW, as a list of bus commands (R346, R354, R358, R367). -/
theorem backendInit_eq_run {s : State} (bus : s.ctlr.active ≠ .led ∨ busOf s.par .led = .i2c) (oled : s.par.oledInit = [])
    (wiring : s.par.lcdMap = defaultLcdMap) :
    backendInit s = run (bringUpCmds s.par s.ctlr.active s.ctlr.desc s.ctlr.bright s.ctlr.power) s := by
  unfold backendInit
  cases active : s.ctlr.active with
  | led =>
    have i2c : busOf s.par .led = .i2c := bus.resolve_left (not_not_intro active)
    rw [i2c]
    rfl
  | lcd => exact congrArg (run · s) (lcdInitCmds_eq wiring ..)
  | oledA => exact congrArg (run · s) (oledBringUp_a oled ..)
  | oledB => exact congrArg (run · s) (oledBringUp_b oled ..)
  | dummy => rfl

/-- The brightness command a later state sends, the registers being as before. -/
theorem sendBrightness_of_kept {s t : State} (par : t.par = s.par) (ctlr : t.ctlr = s.ctlr) :
    sendBrightness t = run (brightCmd s.par s.ctlr.power s.ctlr.active s.ctlr.bright s.ctlr.power) t := by
  rw [sendBrightness, par, ctlr]

/-- Bus commands and then the brightness command are one list of bus commands (R241, R345). -/
theorem run_sendBrightness (cmds : List Cmd) (s : State) :
    ((run cmds s).1 && (sendBrightness (run cmds s).2).1, (sendBrightness (run cmds s).2).2) =
      run (cmds ++ brightCmd s.par s.ctlr.power s.ctlr.active s.ctlr.bright s.ctlr.power) s := by
  have effect := (run_steps cmds s).effect
  rw [run_append, sendBrightness_of_kept effect.par effect.ctlr]

/-- INIT up to its probe writes ACTIVE and the address alone (R241). -/
theorem initProbed_steps (s : State) : InitSteps s (initProbed s) := by
  have head : InitSteps s (initHead s) := applyAddress_steps s
  refine InitSteps.step ?_ (startByteCount_steps (probeTarget (initHead s)))
  unfold probeTarget
  split
  · refine (head.step (busWrite_steps [] [] _)).setActive _ ?_
    split
    · exact .inl rfl
    · exact .inr rfl
  · exact head

/-- INIT on a backend that is not an LED over TW: bring-up and brightness in one list (R241, R346). -/
theorem initBody_eq_run {s : State} (bus : (initProbed s).ctlr.active ≠ .led ∨ busOf s.par .led = .i2c)
    (oled : s.par.oledInit = []) (wiring : s.par.lcdMap = defaultLcdMap) :
    initBody s = run (bringUpCmds s.par (initProbed s).ctlr.active s.ctlr.desc s.ctlr.bright s.ctlr.power ++
      brightCmd s.par s.ctlr.power (initProbed s).ctlr.active s.ctlr.bright s.ctlr.power) (initProbed s) := by
  have steps := initProbed_steps s
  have par := steps.par
  have ctlr := steps.ctlr
  rw [initBody_eq]
  generalize initProbed s = probed at *
  rw [← par] at bus oled wiring ⊢
  rw [backendInit_eq_run bus oled wiring, run_sendBrightness]
  generalize probed.ctlr = c at *
  rw [ctlr]

theorem ledLines_registers {s : State} : (ledLines s).ctlr = s.ctlr ∧ (ledLines s).par = s.par := ⟨rfl, rfl⟩

/-- INIT on LED over TW: the line set-up, then the display mode and the brightness (R346, R349). -/
theorem initBody_eq_ledLines {s : State} (active : (initProbed s).ctlr.active = .led) (bus : busOf s.par .led = .tw) :
    initBody s = run (.w [s.par.twModeCmd] [] :: brightCmd s.par s.ctlr.power .led s.ctlr.bright s.ctlr.power)
      (ledLines (initProbed s)) := by
  have steps := initProbed_steps s
  have par := steps.par
  have ctlr := steps.ctlr
  have bringUp : backendInit (initProbed s) = run [.w [s.par.twModeCmd] []] (ledLines (initProbed s)) := by
    unfold backendInit
    rw [active, par, bus, ← par]
    rfl
  rw [initBody_eq, bringUp, run_sendBrightness]
  rw [ledLines_registers.1, ledLines_registers.2, par, active, ctlr]
  rfl

end Sys2Proof.Machine
end

section
/-! PROOFS, family other: power always wins (42_controller.md R258). POWER has two writers; every other command carries it to the
target as it stands. -/

namespace Sys2Proof.Machine

set_option Elab.async false

theorem exec_keeps_power {i : Instr} {s t : State} (next : exec i s = .next t)
    (other : i.mnemonic ≠ "CTL.SET_POWER" ∧ i.mnemonic ≠ "CTL.RELOAD_DEFAULTS") : t.ctlr.power = s.ctlr.power := by
  by_contra changed
  obtain ⟨-, writers, -⟩ := onlyTheListedCommandsWriteEachRegister i s t next
  have writer := writers changed
  simp [other.1, other.2] at writer

theorem runAll_keeps_power {is : List Instr} {s t : State}
    (others : ∀ i, i ∈ is → i.mnemonic ≠ "CTL.SET_POWER" ∧ i.mnemonic ≠ "CTL.RELOAD_DEFAULTS")
    (next : runAll is s = some t) : t.ctlr.power = s.ctlr.power := by
  induction is generalizing s with
  | nil =>
    cases next
    rfl
  | cons i is ih =>
    cases first : exec i s with
    | next u =>
      simp only [runAll, first] at next
      rw [ih (fun j hj => others j (List.mem_cons_of_mem _ hj)) next]
      exact exec_keeps_power first (others i List.mem_cons_self)
    | fault f => simp [runAll, first] at next
    | refused r => simp [runAll, first] at next

/-- With POWER = 0, what SET_BRIGHTNESS sends (R243). -/
theorem exec_ctlSetBrightness_off {l : Byte} {s : State} (idle : bothIdle s) (off : s.ctlr.power = false)
    (level : l.toNat < levels s.par s.ctlr.active) :
    exec (.ctlSetBrightness l []) s =
      finishAck (run (brightCmd s.par false s.ctlr.active l false) (begin { s with ctlr := { s.ctlr with bright := l } })) := by
  rw [exec_ctlSetBrightness_idle idle level, ← off]
  rfl

/-- With POWER = 0, what INIT sends over TW (R346). -/
theorem exec_ctlInit_off_tw {s : State} (idle : bothIdle s) (off : s.ctlr.power = false)
    (active : (initProbed (begin s)).ctlr.active = .led) (bus : busOf s.par .led = .tw) :
    exec (.ctlInit []) s =
      finishAck (run (.w [s.par.twModeCmd] [] :: brightCmd s.par false .led s.ctlr.bright false)
        (ledLines (initProbed (begin s)))) := by
  rw [exec_ctlInit_idle idle, initBody_eq_ledLines active (by rwa [begin_par]), begin_par, begin_ctlr, off]

/-- With POWER = 0, what INIT sends on every other backend (R346, R354, R358). -/
theorem exec_ctlInit_off_run {s : State} (idle : bothIdle s) (off : s.ctlr.power = false)
    (bus : (initProbed (begin s)).ctlr.active ≠ .led ∨ busOf s.par .led = .i2c) (oled : s.par.oledInit = [])
    (wiring : s.par.lcdMap = defaultLcdMap) :
    exec (.ctlInit []) s =
      finishAck (run (bringUpCmds s.par (initProbed (begin s)).ctlr.active s.ctlr.desc s.ctlr.bright false ++
        brightCmd s.par false (initProbed (begin s)).ctlr.active s.ctlr.bright false) (initProbed (begin s))) := by
  rw [exec_ctlInit_idle idle, initBody_eq_run (by rwa [begin_par]) (by rwa [begin_par]) (by rwa [begin_par]), begin_par,
    begin_ctlr, off]

/-- With enable 0 the enable bit of the LED byte is 0 at every level (R349). -/
theorem ledByte_off (l : Byte) : ((0x80 : Byte) ||| (l &&& 0x07)).getLsbD 3 = false := by
  simp

/-- With enable 0 the default brightness command of every backend has it so (R349, R356, R366). -/
theorem brightCmdDefault_off (p : Params) (l : Byte) :
    brightCmdDefault p false .led l false = [.w [0x80 ||| (l &&& 0x07)] []] ∧
    (p.lcdMap = defaultLcdMap →
      brightCmdDefault p false .lcd l false = [.w [] [0x00], .w [] [0x04, 0x00], .w [] [0x84, 0x80], .d p.lcdTCmd]) ∧
    brightCmdDefault p false .oledA l false = [.w [0x00] [0x81, oledContrast p l, 0xAE]] ∧
    brightCmdDefault p false .oledB l false = [.w [0x00] [0x81, oledContrast p l, 0xAE]] ∧
    brightCmdDefault p false .dummy l false = [] := by
  refine ⟨rfl, fun wiring => ?_, rfl, rfl, rfl⟩
  rw [brightCmdDefault, lcdWrite8_default wiring, wiring]
  rfl

/-- Settles O18, clause by clause. -/
theorem powerAlwaysWins : Obligations.PowerAlwaysWins := by
  refine ⟨fun is s t off others next => (runAll_keeps_power others next).trans off,
    fun s idle off => ⟨fun l => exec_ctlSetBrightness_off idle off, ?_, fun ty a f k type => ?_⟩,
    fun s idle => ⟨exec_ctlSetPower_idle false idle, fun off => ?_⟩, fun p l => ?_⟩
  · intro u probed
    have probed : u = initProbed (begin s) := probed
    subst probed
    exact ⟨exec_ctlInit_off_tw idle off, exec_ctlInit_off_run idle off⟩
  · exact ⟨setDesc (descOfBytes [ty, a, f, k]) s, exec_ctlSetDescriptor_idle idle rfl type, idle, off⟩
  · exact ⟨reloadDefaults s, exec_ctlReloadDefaults_idle idle, idle, off⟩
  · obtain ⟨led, lcd, oledA, oledB, dummy⟩ := brightCmdDefault_off p l
    exact ⟨fun none b => brightCmd_default none false b l false, led, ledByte_off l, lcd, oledA, oledB, dummy⟩

end Sys2Proof.Machine
end

section
/-! PROOFS, family other: the 3-wire engine. Each command is its checks and one of the procedures whose equations stand in the laws
(40_threewire.md R142 to R160). -/

namespace Sys2Proof.Machine

set_option Elab.async false

/-! Capability operations: one frame each. -/

theorem twCapability_runs {need : Nat} {txp : List Byte} {body : State → Result} {s : State} (idle : s.tws.frame = .idle)
    (length : txp.length = need) : twCapability need txp body s = body (begin s) :=
  command_runs ((twIdle_iff s).2 idle) length

/-- A write and its end (R152, R161). -/
theorem finish_twWrite (bs : List Byte) (s : State) :
    finish .ok (twWrite bs (begin s)) = .next (answered .ok []
      (withEvents (twFrameEvents (d3 s) bs)
        { s with dp := dpAfterSent bs.length { s.dp with bytecnt := 0 }, tws := twClosed bs.length s.tws })) := by
  rw [twWrite_eq]
  rfl

/-- Settles O20: the three writes differ in their bytes alone. -/
theorem twWritesSendOneFrame : Obligations.TwWritesSendOneFrame := by
  intro s idle
  refine ⟨fun m n txp length => ?_, fun n txp length => ?_, fun b => ?_⟩
  · show execTwWriteCmdData m n txp s = _
    rw [execTwWriteCmdData, twCapability_runs idle length, finish_twWrite]
  · show execTwWriteData n txp s = _
    rw [execTwWriteData, twCapability_runs idle length, finish_twWrite]
  · show execTwWriteByte b [] s = _
    rw [execTwWriteByte, twCapability_runs idle List.length_nil]
    exact finish_twWrite [b] s

/-- A read and its end (R149, R161). -/
theorem finishTwRead_eq (cs : List Byte) {n : Nat} {s : State} (positive : 0 < n) (dir : s.tws.dir = .input) :
    finishTwRead (twRead cs n (begin s)) = .next (answered .ok (bytesSampled true n (answerAt s))
      (withEvents (twReadFrameEvents (d3 s) cs n (answerAt s))
        (afterAnswers (8 * n)
          { s with
            dp := dpAfterRead n true 8 (answerAt s) (dpAfterSent cs.length { s.dp with bytecnt := 0 })
            tws := twClosed (cs.length + n) s.tws }))) := by
  rw [finishTwRead, twRead_eq cs n (begin s) positive dir]
  rfl

theorem bytesSampled_one (lsb : Bool) (f : Nat → Bool) : bytesSampled lsb 1 f = [byteSampled lsb f] :=
  bytesSampled_succ lsb 0 f

/-- A read with no command bytes (R150). -/
theorem finishTwRead_data {n : Nat} {s : State} (positive : 0 < n) (dir : s.tws.dir = .input) :
    finishTwRead (twRead [] n (begin s)) = .next (answered .ok (bytesSampled true n (answerAt s))
      (withEvents (twReadFrameEvents (d3 s) [] n (answerAt s))
        (afterAnswers (8 * n)
          { s with
            dp := dpAfterRead n true 8 (answerAt s) { s.dp with bytecnt := 0 }
            tws := twClosed n s.tws }))) := by
  have read := finishTwRead_eq [] positive dir
  rwa [List.length_nil, Nat.zero_add, dpAfterSent_zero] at read

/-- Settles O21: the three reads differ in their command bytes and their count alone. -/
theorem twReadsTakeOneFrame : Obligations.TwReadsTakeOneFrame := by
  intro s idle dir
  refine ⟨fun m n txp length nonzero => ?_, fun n nonzero => ?_, ?_⟩
  · show execTwReadCmdData m n txp s = _
    rw [execTwReadCmdData, twCapability_runs idle length, finishTwRead_eq txp (BitVec.toNat_pos_of_ne_zero nonzero) dir]
  · show execTwReadData n [] s = _
    rw [execTwReadData, twCapability_runs idle List.length_nil, finishTwRead_data (BitVec.toNat_pos_of_ne_zero nonzero) dir]
  · show execTwReadByte [] s = _
    rw [execTwReadByte, twCapability_runs idle List.length_nil, finishTwRead_data Nat.one_pos dir, bytesSampled_one]

/-! Primitives. -/

theorem twIdle_of_opened {s : State} (opened : s.tws.frame = .opened) : twIdle s = false := by
  simp [twIdle, opened]

/-- Settles O22. -/
theorem twBeginAndEnd : Obligations.TwBeginAndEnd := by
  intro s
  refine ⟨fun idle => ?_, fun opened => ?_⟩
  · show execTwBegin [] s = _
    rw [execTwBegin, command_runs ((twIdle_iff s).2 idle) List.length_nil, twBegin_eq]
    rfl
  · show execTwEnd [] s = _
    rw [execTwEnd, twPrimitive, command_runs (by rw [twIdle_of_opened opened]; rfl) List.length_nil, twEnd_eq]
    rfl

/-- A primitive that turns the line where the turn is allowed (R148). -/
theorem twTurned_runs {x : TwDir} {body : State → Result} {s : State} (turns : s.tws.dir = x ∨ s.tws.bitcnt = 0) :
    twTurned x body s = body (twSwitch x s) := by
  rw [twTurned, twDir_some x s turns]

/-- A bit primitive in an open frame, its turn allowed (R157, R158). -/
theorem twBitPrimitive_runs {x : TwDir} {body : State → Result} {s : State} (opened : s.tws.frame = .opened)
    (turns : s.tws.dir = x ∨ s.tws.bitcnt = 0) :
    twBitPrimitive x [] (twTurned x body) s = body (twSwitch x (begin s)) := by
  have ready : (!twIdle s && twTurns x s) = true := by
    simpa [twIdle_of_opened opened, twTurns] using turns
  have turnsBegin : (begin s).tws.dir = x ∨ (begin s).tws.bitcnt = 0 := turns
  rw [twBitPrimitive, command_runs ready List.length_nil, twTurned_runs turnsBegin]

/-- A byte primitive at a byte boundary of an open frame (R159, R160). -/
theorem twBytePrimitive_runs {x : TwDir} {body : State → Result} {s : State} (opened : s.tws.frame = .opened)
    (boundary : s.tws.bitcnt = 0) : twBytePrimitive [] (twTurned x body) s = body (twSwitch x (begin s)) := by
  have ready : (!twIdle s && twBoundary s) = true := by
    simp [twIdle_of_opened opened, twBoundary, boundary]
  have turnsBegin : (begin s).tws.dir = x ∨ (begin s).tws.bitcnt = 0 := .inr boundary
  rw [twBytePrimitive, command_runs ready List.length_nil, twTurned_runs turnsBegin]

/-- Where the line already is an input, a receiving primitive begins at once (R148). -/
theorem twSwitch_begin_input {s : State} (dir : s.tws.dir = .input) : twSwitch .input (begin s) = begin s :=
  twSwitch_same .input (begin s) dir

/-- Settles O23: the turn, then the bit procedure. -/
theorem twBitPrimitives : Obligations.TwBitPrimitives := by
  intro s opened
  refine ⟨fun b turns => ?_, fun dir => ?_, fun dir boundary => ?_, fun b txp dir mid => ?_, fun txp dir mid => ?_⟩
  · show execTwTxBit b [] s = _
    rw [execTwTxBit, twBitPrimitive_runs opened turns, twSwitch_output, twTxBit_eq]
    rfl
  · show execTwRxBit [] s = _
    rw [execTwRxBit, twBitPrimitive_runs opened (.inl dir), twSwitch_begin_input dir, twRxBit_eq]
    rfl
  · have first : ({ s.tws with dir := .input, bitcnt := 1, clk := .driven true, dio := .input } : TwState) =
        { s.tws with dir := .input, bitcnt := s.tws.bitcnt + 1, clk := .driven true, dio := .input } := by
      rw [boundary]
      rfl
    show execTwRxBit [] s = _
    rw [execTwRxBit, twBitPrimitive_runs opened (.inr boundary), twSwitch_input (begin s) dir, twRxBit_eq, first,
      ← withEvents_withEvents]
    rfl
  · exact sequencingIsCheckedFirst _ s (by simpa [busReady, twTurns, dir] using fun _ => mid)
  · exact sequencingIsCheckedFirst _ s (by simpa [busReady, twTurns, dir] using fun _ => mid)

theorem twReadEvents_one (d : Nat) (f : Nat → Bool) :
    twReadEvents d 1 f = (List.range 8).flatMap (fun i => twSampleEvents d (f i)) :=
  (twReadEvents_succ d 0 f).trans (List.append_nil _)

/-- Settles O24: the turn, then the byte procedure. -/
theorem twBytePrimitives : Obligations.TwBytePrimitives := by
  intro s opened boundary
  refine ⟨fun b => ?_, fun dir => ?_, fun dir => ?_⟩
  · show execTwTxByte b [] s = _
    rw [execTwTxByte, twBytePrimitive_runs opened boundary, twSwitch_output, twTxByte_eq]
    rfl
  · show execTwRxByte [] s = _
    rw [execTwRxByte, twBytePrimitive_runs opened boundary, twSwitch_begin_input dir, twRxByte_eq, twReadEvents_one]
    rfl
  · show execTwRxByte [] s = _
    rw [execTwRxByte, twBytePrimitive_runs opened boundary, twSwitch_input (begin s) dir, twRxByte_eq, twReadEvents_one,
      ← withEvents_withEvents]
    rfl

/-! What a target hears (R164). -/

/-- A target in a frame that has heard these bits since it opened, after these frames. -/
structure Hearing (t : TwEar) (bits : List Bool) (frames : List (List Bool)) : Prop where
  strobe : t.strobeLow = true
  bits : t.bits = bits
  frames : t.frames = frames

/-- A driven bit is heard at its rising edge (R144, R164). -/
theorem Hearing.bit {t : TwEar} {bits : List Bool} {frames : List (List Bool)} (h : Hearing t bits frames) (d : Nat) (b : Bool) :
    Hearing ((twBitEvents d b).foldl twHear t) (bits ++ [b]) frames := by
  obtain ⟨strobe, rfl, rfl⟩ := h
  refine ⟨strobe, ?_, rfl⟩
  cases data : t.data <;> simp [twBitEvents, twHear, strobe, data]

theorem Hearing.bitList {bits : List Bool} {frames : List (List Bool)} (d : Nat) (bs : List Bool) {t : TwEar}
    (h : Hearing t bits frames) : Hearing ((bs.flatMap (twBitEvents d)).foldl twHear t) (bits ++ bs) frames := by
  induction bs generalizing t bits with
  | nil => simpa using h
  | cons b bs ih =>
    rw [List.flatMap_cons, List.foldl_append]
    simpa using ih (h.bit d b)

/-- A byte is heard LSB first, bytes in their order (R146, R164). -/
theorem Hearing.bytes {bits : List Bool} {frames : List (List Bool)} (d : Nat) (bs : List Byte) {t : TwEar}
    (h : Hearing t bits frames) :
    Hearing ((bs.flatMap (twByteEvents d)).foldl twHear t) (bits ++ bs.flatMap bitsLow) frames := by
  have flat : bs.flatMap (twByteEvents d) = (bs.flatMap bitsLow).flatMap (twBitEvents d) := by
    rw [List.flatMap_assoc]
    rfl
  rw [flat]
  exact h.bitList d _

/-- A target hears nothing of a bit OBLE samples, DIO being released (R145, R164). -/
theorem Hearing.sample {t : TwEar} {bits : List Bool} {frames : List (List Bool)} (h : Hearing t bits frames)
    (released : t.data = none) (d : Nat) (v : Bool) :
    Hearing ((twSampleEvents d v).foldl twHear t) bits frames ∧ ((twSampleEvents d v).foldl twHear t).data = none := by
  obtain ⟨strobe, rfl, rfl⟩ := h
  exact ⟨⟨strobe, by simp [twSampleEvents, twHear, released], rfl⟩, released⟩

theorem Hearing.samples {bits : List Bool} {frames : List (List Bool)} (d : Nat) (vs : List Bool) {t : TwEar}
    (h : Hearing t bits frames) (released : t.data = none) :
    Hearing ((vs.flatMap (twSampleEvents d)).foldl twHear t) bits frames := by
  induction vs generalizing t with
  | nil => exact h
  | cons v vs ih =>
    rw [List.flatMap_cons, List.foldl_append]
    obtain ⟨heard, still⟩ := h.sample released d v
    exact ih heard still

/-- The end of a frame delivers its bits (R143, R164). -/
theorem Hearing.close {t : TwEar} {bits : List Bool} {frames : List (List Bool)} (h : Hearing t bits frames) (d : Nat) :
    ((twCloseEvents d).foldl twHear t).frames = frames ++ [bits] := by
  obtain ⟨strobe, rfl, rfl⟩ := h
  simp [twCloseEvents, twHear, strobe]

/-- A target before its first frame. -/
def quietTarget : TwEar := { strobeLow := false, clockLow := false, data := none, bits := [], frames := [] }

/-- The start of a frame (R142, R164). -/
theorem hearing_open (d : Nat) :
    Hearing ((twOpenEvents d).foldl twHear quietTarget) [] [] ∧ ((twOpenEvents d).foldl twHear quietTarget).data = none :=
  ⟨⟨rfl, rfl, rfl⟩, rfl⟩

/-- A target sees one frame in a write, with the bits sent (R152, R164). -/
theorem twFramesSeen_write (d : Nat) (bs : List Byte) : twFramesSeen (twFrameEvents d bs) = [bs.flatMap bitsLow] := by
  have heard := ((hearing_open d).1.bytes d bs).close d
  rw [← List.foldl_append, ← List.foldl_append] at heard
  exact heard

/-- The samples of a read, as one list. -/
theorem twReadEvents_eq (d n : Nat) (f : Nat → Bool) :
    twReadEvents d n f =
      ((List.range n).flatMap (fun j => (List.range 8).map (fun i => f (8 * j + i)))).flatMap (twSampleEvents d) := by
  rw [twReadEvents, List.flatMap_assoc]
  refine congrArg (fun g => List.flatMap g (List.range n)) (funext fun j => ?_)
  rw [List.flatMap_map]

/-- A turn of the line releases it and is not heard (R148, R164). -/
theorem Hearing.turn {t : TwEar} {bits : List Bool} {frames : List (List Bool)} (h : Hearing t bits frames) (d : Nat) :
    Hearing ((twTurnEvents d).foldl twHear t) bits frames ∧ ((twTurnEvents d).foldl twHear t).data = none :=
  ⟨⟨h.strobe, h.bits, h.frames⟩, rfl⟩

/-- Before the samples the line is released, whether there were command bytes or not (R148, R149). -/
theorem hearing_turned (d : Nat) (cs : List Byte) :
    let t := (if cs.isEmpty then [] else twTurnEvents d).foldl twHear
      ((cs.flatMap (twByteEvents d)).foldl twHear ((twOpenEvents d).foldl twHear quietTarget))
    Hearing t (cs.flatMap bitsLow) [] ∧ t.data = none := by
  cases cs with
  | nil => exact hearing_open d
  | cons c cs =>
    exact ((hearing_open d).1.bytes d (c :: cs)).turn d

/-- A target sees one frame in a read, with the bits of the command bytes (R149, R164). -/
theorem twFramesSeen_read (d : Nat) (cs : List Byte) (n : Nat) (f : Nat → Bool) :
    twFramesSeen (twReadFrameEvents d cs n f) = [cs.flatMap bitsLow] := by
  obtain ⟨sent, released⟩ := hearing_turned d cs
  have heard := (sent.samples d ((List.range n).flatMap (fun j => (List.range 8).map (fun i => f (8 * j + i)))) released).close d
  rw [← twReadEvents_eq] at heard
  simp only [← List.foldl_append] at heard
  exact heard

/-- Settles O26: the trace of the operation is that of one frame. -/
theorem twTargetSeesTheBytes : Obligations.TwTargetSeesTheBytes := by
  intro i s inv idle formed counted
  obtain ⟨⟨k, r⟩, counts⟩ := Option.isSome_iff_exists.mp counted
  obtain ⟨-, t, next, trace⟩ := exec_trace_of_twCounts inv idle formed counts
  refine ⟨t, _, next, trace, ?_⟩
  cases r with
  | zero => exact twFramesSeen_write (d3 s) (twSentBytes i)
  | succ r => exact twFramesSeen_read (d3 s) (twSentBytes i) (r + 1) (answerAt s)

end Sys2Proof.Machine
end

section
/-! PROOFS, family other: the I2C primitives. Each is its check of the bus state and one procedure of the engine, whose equation
stands in the laws (41_i2c.md R183 to R192, R200 to R207). -/

namespace Sys2Proof.Machine

set_option Elab.async false

theorem i2cIdle_of_held {s : State} (held : s.i2cs.bus = .held) : i2cIdle s = false := by
  simp [i2cIdle, held]

/-- A primitive on a held bus (R211). -/
theorem i2cPrimitive_runs {body : State → Result} {s : State} (held : s.i2cs.bus = .held) :
    i2cPrimitive [] body s = body (begin s) :=
  command_runs (by rw [i2cIdle_of_held held]; rfl) List.length_nil

/-- The lines of a held bus, with the bus state written out. -/
theorem heldLines_eq {s : State} (held : s.i2cs.bus = .held) (sda scl : I2cDrive) :
    I2cState.mk .held sda scl = .mk s.i2cs.bus sda scl := by
  rw [held]

/-! Line primitives. -/

theorem exec_i2cStart (s : State) :
    exec (.i2cStart []) s = .next (finished .ok (if i2cIdle s then i2cStart (begin s) else i2cRstart (begin s))) := by
  show execI2cStart [] s = _
  rw [execI2cStart, command_runs rfl List.length_nil, finish_eq]
  rfl

/-- Settles O27: each primitive is one procedure of the engine. -/
theorem i2cLinePrimitives : Obligations.I2cLinePrimitives := by
  intro s
  refine ⟨fun idle => ?_, fun held => ⟨?_, ?_, fun b => ?_, ?_⟩⟩
  · rw [exec_i2cStart, if_pos ((i2cIdle_iff s).2 idle), i2cStart_eq]
    rfl
  · rw [exec_i2cStart, i2cIdle_of_held held, i2cRstart_eq, heldLines_eq held]
    rfl
  · show execI2cStop [] s = _
    rw [execI2cStop, i2cPrimitive_runs held, i2cStop_eq]
    rfl
  · show execI2cTxBit b [] s = _
    rw [execI2cTxBit, i2cPrimitive_runs held, i2cTxBit_eq, heldLines_eq held]
    rfl
  · show execI2cRxBit [] s = _
    rw [execI2cRxBit, i2cPrimitive_runs held, i2cRxBit_eq, heldLines_eq held]
    rfl

/-! Bytes and their acknowledge. -/

/-- Settles O28: the poll samples or is stuck, and there is no third case. -/
theorem i2cAckPollSamplesOrTimesOut : Obligations.I2cAckPollSamplesOrTimesOut := by
  intro s held
  have runs : exec (.i2cAckPoll []) s = finishAckBit (i2cAckPoll (begin s)) := by
    show execI2cAckPoll [] s = _
    rw [execI2cAckPoll, i2cPrimitive_runs held]
  refine ⟨fun w rises => ?_, fun stuck => ?_, clockRises_or_stuck s⟩
  · rw [runs, i2cAckPoll_sampled w (begin s) rises, heldLines_eq held]
    rfl
  · rw [runs, i2cAckPoll_stuck (begin s) stuck, heldLines_eq held]
    rfl

/-- A byte sent by a primitive, its acknowledge sampled (R189, R190, R204). -/
theorem finishAckBit_sampled {lsb : Bool} {x : Byte} {w : Nat} {s : State} (held : s.i2cs.bus = .held)
    (rises : clockRises s w) :
    finishAckBit (i2cTxOrdered lsb x (begin s)) = .next (concluded
      { rc := ackCode (!answerAt s (w + 1)), tmo := false, acked := if answerAt s (w + 1) then 0 else 1 }
      [boolByte (answerAt s (w + 1))]
      (withEvents (i2cByteEvents lsb (dI2c s) w (answerAt s (w + 1)) x)
        (afterAnswers (w + 2)
          { s with
            dp := { sr := 0, bitcnt := 8, bytecnt := s.dp.bytecnt + 1, tmocnt := BitVec.ofNat 16 w }
            i2cs := { bus := .held, sda := .rel, scl := .low } }))) := by
  rw [i2cTxOrdered_sampled lsb x w (begin s) rises, heldLines_eq held]
  rfl

/-- A byte sent by a primitive, its poll timed out (R188, R189, R204). -/
theorem finishAckBit_stuck {lsb : Bool} {x : Byte} {s : State} (held : s.i2cs.bus = .held) (stuck : clockStuck s) :
    finishAckBit (i2cTxOrdered lsb x (begin s)) = .next (concluded { rc := .ackf, tmo := true, acked := 0 } [1]
      (withEvents ((bitsIn lsb x).flatMap (i2cBitEvents (dI2c s)) ++ i2cTimeoutEvents (dI2c s) s.cfg.i2c.tack.toNat)
        (afterAnswers (s.cfg.i2c.tack.toNat + 1)
          { s with
            dp := { sr := 0, bitcnt := 8, bytecnt := s.dp.bytecnt + 1, tmocnt := s.cfg.i2c.tack }
            i2cs := { bus := .held, sda := .rel, scl := .low } }))) := by
  rw [i2cTxOrdered_stuck lsb x (begin s) stuck, heldLines_eq held]
  rfl

/-- Settles O29. -/
theorem i2cTxByteSendsAndPolls : Obligations.I2cTxByteSendsAndPolls := by
  intro s b held
  have runs : exec (.i2cTxByte b []) s = finishAckBit (i2cTxOrdered s.cfg.i2c.lsbf b (begin s)) := by
    show execI2cTxByte b [] s = _
    rw [execI2cTxByte, i2cPrimitive_runs held]
    rfl
  rw [runs]
  exact ⟨fun w rises => finishAckBit_sampled held rises, finishAckBit_stuck held⟩

/-- Settles O30. -/
theorem i2cRxByteSamplesAndAcknowledges : Obligations.I2cRxByteSamplesAndAcknowledges := by
  intro s m held
  show execI2cRxByte m [] s = _
  rw [execI2cRxByte, i2cPrimitive_runs held, i2cRxByte_eq, heldLines_eq held]
  rfl

/-! The address phase. -/

/-- What a step and the step after it both keep, a guarded step keeps. -/
theorem ifAcked_keeps {p : State → Prop} {a : Bool × State} {f : State → Bool × State} (first : p a.2)
    (next : ∀ t, p t → p (f t).2) : p (ifAcked a f).2 := by
  unfold ifAcked
  split
  · exact first
  · exact next _ first

/-- The bus stays held through the address phase: no STOP in it (R192). -/
theorem i2cAddrPhase_bus (rw combined : Bool) (s : State) : (i2cAddrPhase rw combined s).2.i2cs.bus = s.i2cs.bus := by
  have sent : ∀ x t, t.i2cs.bus = s.i2cs.bus → (i2cTxAddr x t).2.i2cs.bus = s.i2cs.bus := by
    intro x t bus
    rw [i2cTxAddr, i2cTxOrdered_lines]
    exact bus
  unfold i2cAddrPhase
  split
  · rfl
  · exact sent _ _ rfl
  · split
    · exact sent _ _ rfl
    · refine ifAcked_keeps (p := fun t => t.i2cs.bus = s.i2cs.bus)
        (ifAcked_keeps (p := fun t => t.i2cs.bus = s.i2cs.bus) (sent _ _ rfl) fun t => sent _ t) fun t bus => ?_
      split
      · exact sent _ _ bus
      · exact bus

theorem exec_i2cAddr {s : State} (combined rw : Bool) (held : s.i2cs.bus = .held) :
    exec (.i2cAddr combined rw []) s = finishAckBit (i2cAddrPhase rw combined (begin s)) := by
  show execI2cAddr combined rw [] s = _
  rw [execI2cAddr, i2cPrimitive_runs held]

theorem I2cSteps.keepsRegisters {s t : State} (h : I2cSteps (begin s) t) : KeepsRegisters s t :=
  ⟨h.effect.cfg, h.effect.ctlr, h.effect.wbuf, h.effect.refused, h.effect.par, h.effect.inbox⟩

/-- The end of a primitive that reports an acknowledge bit (R204). -/
theorem finishAckBit_code (a : Bool × State) (empty : a.2.rxq = []) :
    ∃ t, finishAckBit a = .next t ∧ t.i2cs = a.2.i2cs ∧ t.tws = a.2.tws ∧
      (∀ s, KeepsRegisters s a.2 → KeepsRegisters s t) ∧
      (t.status.rc = .ok ∧ t.rxq = [0] ∨ t.status.rc = .ackf ∧ t.rxq = [1]) := by
  refine ⟨_, rfl, rfl, rfl, fun _ h => ⟨h.cfg, h.ctlr, h.wbuf, h.refused, h.par, h.inbox⟩, ?_⟩
  cases acked : a.1
  · exact .inl ⟨rfl, by simp [empty, boolByte]⟩
  · exact .inr ⟨rfl, by simp [empty, boolByte]⟩

theorem i2cAddrPhase_a7 (rw combined : Bool) {s : State} (mode : s.cfg.i2c.amode = .a7) :
    i2cAddrPhase rw combined s = i2cTxAddr (addr7Byte s.cfg.i2c.addr rw) s := by
  simp only [i2cAddrPhase, mode]

theorem i2cAddrPhase_a10_combined {s : State} (mode : s.cfg.i2c.amode = .a10) :
    i2cAddrPhase true true s = i2cTxAddr (addr10Header s.cfg.i2c.addr true) s := by
  simp [i2cAddrPhase, mode]

theorem i2cAddrPhase_a10 {rw combined : Bool} {s : State} (mode : s.cfg.i2c.amode = .a10) (split : (rw && combined) = false) :
    i2cAddrPhase rw combined s = ifAcked (i2cAddr10Write s) (fun t =>
      if rw then i2cTxAddr (addr10Header s.cfg.i2c.addr true) (i2cRstart t) else (false, t)) := by
  simp [i2cAddrPhase, mode, split]

/-- A guarded step after a byte not acknowledged does not run (R193). -/
theorem ifAcked_nack {a : Bool × State} (f : State → Bool × State) (nack : a.1 = true) : ifAcked a f = a := by
  rw [ifAcked, if_pos nack]

/-- A guarded step after an acknowledged byte runs. -/
theorem ifAcked_ack {a : Bool × State} (f : State → Bool × State) (ack : a.1 = false) : ifAcked a f = f a.2 := by
  rw [ifAcked, if_neg (by simp [ack])]

/-- A header that is not acknowledged is the whole address phase (R192, R193). -/
theorem i2cAddrPhase_a10_nack {rw combined : Bool} {s : State} (mode : s.cfg.i2c.amode = .a10)
    (split : (rw && combined) = false) (nack : (i2cTxAddr (addr10Header s.cfg.i2c.addr false) s).1 = true) :
    i2cAddrPhase rw combined s = i2cTxAddr (addr10Header s.cfg.i2c.addr false) s := by
  have first : i2cAddr10Write s = i2cTxAddr (addr10Header s.cfg.i2c.addr false) s := ifAcked_nack _ nack
  rw [i2cAddrPhase_a10 mode split, first, ifAcked_nack _ nack]

/-- The 10-bit address of a write, acknowledged at once (R192). -/
theorem i2cAddr10Write_acked {s : State} (acks : acksAtOnce s 2) :
    i2cAddr10Write s = (false,
      withEvents (sentEvents (dI2c s) (wireBytes s.cfg.i2c
          [addr10Header s.cfg.i2c.addr false, s.cfg.i2c.addr.extractLsb' 0 8] []))
        (afterAnswers 4
          { s with
            dp := dpAfterAcked 2 s.dp
            i2cs := { s.i2cs with sda := .rel, scl := .low }
            status := { s.status with acked := ackedAfter 2 s.status.acked } })) := by
  rw [i2cAddr10Write_send]
  exact i2cSend_acked _ s acks

/-- The 10-bit address of a read that is not combined, acknowledged at once (R192). -/
theorem i2cAddr10Read_acked {s : State} (mode : s.cfg.i2c.amode = .a10) (acks : acksAtOnce s 3) :
    i2cAddrPhase true false s = (false,
      withEvents
        (sentEvents (dI2c s) (wireBytes s.cfg.i2c [addr10Header s.cfg.i2c.addr false, s.cfg.i2c.addr.extractLsb' 0 8] []) ++
          i2cRstartEvents (dI2c s) ++ sentEvents (dI2c s) (wireBytes s.cfg.i2c [addr10Header s.cfg.i2c.addr true] []))
        (afterAnswers 6
          { s with
            dp := dpAfterAcked 3 s.dp
            i2cs := { s.i2cs with sda := .rel, scl := .low }
            status := { s.status with acked := ackedAfter 3 s.status.acked } })) := by
  have written := i2cAddr10Write_acked (s := s) fun j hj => acks j (by omega)
  have third := acks 2 (by omega)
  rw [i2cAddrPhase_a10 mode rfl, written, ifAcked_ack _ rfl, if_pos rfl, i2cTxAddr_send, i2cSend_acked]
  · refine Prod.ext rfl (State.eq_of_fields ?_ rfl rfl rfl ?_ rfl rfl rfl rfl rfl ?_ rfl)
    · exact dpAfterAcked_add 2 1 s.dp
    · simp [wireBytes, i2cRstart_eq, ackedAfter_ackedAfter]
    · simp [wireBytes, i2cRstart_eq, dI2c]
  · intro j hj
    obtain rfl : j = 0 := by simpa [wireBytes] using hj
    simpa [answerAt, i2cRstart_eq] using third

/-- Settles O31. -/
theorem i2cAddrSendsTheAddress : Obligations.I2cAddrSendsTheAddress := by
  intro s combined rw held
  rw [exec_i2cAddr combined rw held]
  refine ⟨?_, fun none => ?_, fun x w rises => ?_, fun mode write acks => ?_, fun mode read split acks => ?_⟩
  · have steps := i2cAddrPhase_steps rw combined (begin s)
    obtain ⟨t, next, i2cs, tws, registers, code⟩ := finishAckBit_code (i2cAddrPhase rw combined (begin s)) steps.effect.rxq
    exact ⟨t, next, by rw [i2cs, i2cAddrPhase_bus]; exact held, tws.trans steps.tws, registers s steps.keepsRegisters, code⟩
  · have nothing : i2cAddrPhase rw combined (begin s) = (false, begin s) := by
      simp [i2cAddrPhase, none]
    rw [nothing]
    rfl
  · have sampled := finishAckBit_sampled (lsb := addressLsb s.cfg.i2c) (x := x) held rises
    rintro (⟨mode, rfl⟩ | ⟨mode, rfl, rfl, rfl⟩ | ⟨mode, split, nack, rfl⟩)
    · rw [i2cAddrPhase_a7 _ _ (by rwa [begin_cfg])]
      exact sampled
    · rw [i2cAddrPhase_a10_combined (by rwa [begin_cfg])]
      exact sampled
    · rw [i2cAddrPhase_a10_nack (by rwa [begin_cfg]) split]
      · exact sampled
      · rw [i2cTxAddr, i2cTxOrdered_sampled _ _ w (begin s) rises]
        exact nack
  · subst write
    rw [i2cAddrPhase_a10 (by rwa [begin_cfg]) rfl, i2cAddr10Write_acked (s := begin s) acks, heldLines_eq held]
    rfl
  · subst read split
    rw [i2cAddr10Read_acked (s := begin s) mode acks, heldLines_eq held]
    rfl

end Sys2Proof.Machine
end

section
/-! PROOFS, family other: the I2C capability operations. A write or a read is one transaction, and the laws say what it sends and how
it ends; what is left is each command's operands, the timing, and what a target hears (41_i2c.md R193 to R199, R213, R214). -/

namespace Sys2Proof.Machine

set_option Elab.async false

/-! The commands and their transactions. -/

theorem i2cCapability_runs {need : Nat} {txp : List Byte} {body : State → Result} {s : State} (idle : s.i2cs.bus = .idle)
    (length : txp.length = need) : i2cCapability need txp body s = body (begin s) :=
  command_runs ((i2cIdle_iff s).2 idle) length

/-- The writes are one transaction of their bytes (R194 to R196). -/
theorem exec_i2cWrite {i : Instr} {s : State} {bs : List Byte} (operands : i2cWriteBytes i = some bs)
    (idle : s.i2cs.bus = .idle) : exec i s = finishAck (i2cWrite bs (begin s)) := by
  cases i with
  | i2cWriteCmdData m n txp =>
    obtain ⟨length, rfl⟩ : txp.length = m.toNat + n.toNat ∧ txp = bs := by simpa [i2cWriteBytes] using operands
    show execI2cWriteCmdData m n txp s = _
    rw [execI2cWriteCmdData, i2cCapability_runs idle length]
  | i2cWriteData n txp =>
    obtain ⟨length, rfl⟩ : txp.length = n.toNat ∧ txp = bs := by simpa [i2cWriteBytes] using operands
    show execI2cWriteData n txp s = _
    rw [execI2cWriteData, i2cCapability_runs idle length]
  | i2cWriteByte b txp =>
    obtain ⟨rfl, rfl⟩ : txp = [] ∧ [b] = bs := by simpa [i2cWriteBytes] using operands
    show execI2cWriteByte b [] s = _
    rw [execI2cWriteByte, i2cCapability_runs idle List.length_nil]
  | _ => cases operands

/-- The reads are one transaction of their command bytes and their count (R197 to R199). -/
theorem exec_i2cRead {i : Instr} {s : State} {cs : List Byte} {n : Nat} (operands : i2cReadOperands i = some (cs, n))
    (idle : s.i2cs.bus = .idle) : exec i s = finishRead (i2cRead cs n (begin s)) := by
  cases i with
  | i2cReadCmdData m k txp =>
    obtain ⟨length, rfl, rfl⟩ : txp.length = m.toNat ∧ txp = cs ∧ k.toNat = n := by simpa [i2cReadOperands] using operands
    show execI2cReadCmdData m k txp s = _
    rw [execI2cReadCmdData, i2cCapability_runs idle length]
  | i2cReadData k txp =>
    obtain ⟨rfl, rfl, rfl⟩ : txp = [] ∧ [] = cs ∧ k.toNat = n := by simpa [i2cReadOperands] using operands
    show execI2cReadData k [] s = _
    rw [execI2cReadData, i2cCapability_runs idle List.length_nil]
  | i2cReadByte txp =>
    obtain ⟨rfl, rfl, rfl⟩ : txp = [] ∧ [] = cs ∧ 1 = n := by simpa [i2cReadOperands] using operands
    show execI2cReadByte [] s = _
    rw [execI2cReadByte, i2cCapability_runs idle List.length_nil]
  | _ => cases operands

/-- Settles O32. -/
theorem i2cWritesAcknowledged : Obligations.I2cWritesAcknowledged := by
  intro i s bs operands idle acks
  rw [exec_i2cWrite operands idle, i2cWrite_acked bs (begin s) acks]
  rfl

/-- A write one of whose bytes is not acknowledged (R193). -/
theorem i2cWrite_nack {bs : List Byte} {sent rest : List (Bool × Byte)} {w : Bool × Byte} {s : State}
    (bytes : wireBytes s.cfg.i2c (writeAddress s.cfg.i2c) bs = sent ++ w :: rest) (acks : acksAtOnce s sent.length)
    (high : answerAt s (2 * sent.length) = true) (nack : answerAt s (2 * sent.length + 1) = true) :
    i2cWrite bs s = (false,
      withEvents
        (i2cStartEvents (dI2c s) ++ sentEvents (dI2c s) sent ++ i2cByteEvents w.1 (dI2c s) 0 true w.2 ++ i2cStopEvents (dI2c s))
        (afterAnswers (2 * sent.length + 2)
          { s with
            dp := { sr := 0, bitcnt := 8, bytecnt := BitVec.ofNat 12 (sent.length + 1), tmocnt := 0 }
            i2cs := i2cClosed
            status := { s.status with acked := ackedAfter sent.length s.status.acked } })) := by
  rw [i2cWrite_send, bytes, i2cSend_nack sent w rest (i2cStart (clearByteCount s)) acks high nack, i2cStop_eq, i2cStart_eq]
  refine Prod.ext rfl (State.eq_of_fields ?_ rfl rfl rfl rfl rfl rfl rfl rfl rfl ?_ rfl)
  · simp
  · simp [dI2c]

/-- A write one of whose bytes' polls times out (R188, R193). -/
theorem i2cWrite_stuck {bs : List Byte} {sent rest : List (Bool × Byte)} {w : Bool × Byte} {s : State}
    (bytes : wireBytes s.cfg.i2c (writeAddress s.cfg.i2c) bs = sent ++ w :: rest) (acks : acksAtOnce s sent.length)
    (low : ∀ j, j ≤ s.cfg.i2c.tack.toNat → answerAt s (2 * sent.length + j) = false) :
    i2cWrite bs s = (false,
      withEvents
        (i2cStartEvents (dI2c s) ++ sentEvents (dI2c s) sent ++ (bitsIn w.1 w.2).flatMap (i2cBitEvents (dI2c s)) ++
          i2cTimeoutEvents (dI2c s) s.cfg.i2c.tack.toNat ++ i2cStopEvents (dI2c s))
        (afterAnswers (2 * sent.length + s.cfg.i2c.tack.toNat + 1)
          { s with
            dp := { sr := 0, bitcnt := 8, bytecnt := BitVec.ofNat 12 (sent.length + 1), tmocnt := s.cfg.i2c.tack }
            i2cs := i2cClosed
            status := { s.status with tmo := true, acked := ackedAfter sent.length s.status.acked } })) := by
  rw [i2cWrite_send, bytes, i2cSend_stuck sent w rest (i2cStart (clearByteCount s)) acks low, i2cStop_eq, i2cStart_eq]
  refine Prod.ext rfl (State.eq_of_fields ?_ rfl rfl rfl rfl rfl rfl rfl rfl rfl ?_ rfl)
  · simp
  · simp [dI2c]

/-- Settles O33. -/
theorem i2cWritesStopAtTheFirstFailure : Obligations.I2cWritesStopAtTheFirstFailure := by
  intro i s bs sent rest w operands idle bytes acks
  rw [exec_i2cWrite operands idle]
  refine ⟨fun high nack => ?_, fun low => ?_⟩
  · rw [i2cWrite_nack (s := begin s) bytes acks high nack]
    rfl
  · rw [i2cWrite_stuck (s := begin s) bytes acks low]
    rfl

/-- Settles O34. -/
theorem i2cReadsAcknowledged : Obligations.I2cReadsAcknowledged := by
  intro i s cs n k operands nonzero idle requested acks
  subst requested
  rw [exec_i2cRead operands idle, i2cRead_acked cs n (begin s) nonzero acks]
  rfl

/-- A read whose request fails ends with the STOP and no byte (R193, R197). -/
theorem i2cReadPhase_failed (n : Nat) (t : State) : i2cReadPhase n (true, t) = (false, [], i2cStop t) := rfl

/-- A read whose request is not acknowledged before its repeated START (R193, R197). -/
theorem i2cReadHead_nack {cs : List Byte} {sent rest : List (Bool × Byte)} {w : Bool × Byte} {s : State}
    (bytes : (readRequest s.cfg.i2c cs).1 = sent ++ w :: rest) (acks : acksAtOnce s sent.length)
    (high : answerAt s (2 * sent.length) = true) (nack : answerAt s (2 * sent.length + 1) = true) :
    i2cReadHead cs s = (true,
      withEvents (i2cStartEvents (dI2c s) ++ sentEvents (dI2c s) sent ++ i2cByteEvents w.1 (dI2c s) 0 true w.2)
        (afterAnswers (2 * sent.length + 2)
          { s with
            dp := { sr := 0, bitcnt := 8, bytecnt := s.dp.bytecnt + BitVec.ofNat 12 (sent.length + 1), tmocnt := 0 }
            i2cs := { bus := .held, sda := .rel, scl := .low }
            status := { s.status with acked := ackedAfter sent.length s.status.acked } })) := by
  rw [i2cReadHead, bytes, i2cSend_nack sent w rest (i2cStart s) acks high nack, ifAcked_nack _ rfl, i2cStart_eq]
  refine Prod.ext rfl (State.eq_of_fields rfl rfl rfl rfl rfl rfl rfl rfl rfl rfl ?_ rfl)
  simp [dI2c]

/-- A read whose read address, after the repeated START, is not acknowledged (R193, R197). -/
theorem i2cReadHead_turn_nack {cs : List Byte} {w : Bool × Byte} {s : State} {k : Nat}
    (first : k = (readRequest s.cfg.i2c cs).1.length) (second : (readRequest s.cfg.i2c cs).2 = [w]) (acks : acksAtOnce s k)
    (high : answerAt s (2 * k) = true) (nack : answerAt s (2 * k + 1) = true) :
    i2cReadHead cs s = (true,
      withEvents
        (i2cStartEvents (dI2c s) ++ sentEvents (dI2c s) (readRequest s.cfg.i2c cs).1 ++ i2cRstartEvents (dI2c s) ++
          i2cByteEvents w.1 (dI2c s) 0 true w.2)
        (afterAnswers (2 * k + 2)
          { s with
            dp := { sr := 0, bitcnt := 8, bytecnt := s.dp.bytecnt + BitVec.ofNat 12 (k + 1), tmocnt := 0 }
            i2cs := { bus := .held, sda := .rel, scl := .low }
            status := { s.status with acked := ackedAfter k s.status.acked } })) := by
  subst first
  have filled : (readRequest s.cfg.i2c cs).2.isEmpty = false := by rw [second]; rfl
  rw [i2cReadHead, i2cSend_acked _ (i2cStart s) acks, ifAcked_ack _ rfl, if_neg (by simp [filled]), second]
  refine (i2cSend_nack [] w [] _ (fun j hj => absurd hj (Nat.not_lt_zero j)) ?_ ?_).trans
    (Prod.ext rfl (State.eq_of_fields ?_ rfl ?_ rfl ?_ rfl rfl rfl rfl rfl ?_ rfl))
  · simpa [answerAt, i2cRstart_eq, i2cStart_eq] using high
  · simpa [answerAt, i2cRstart_eq, i2cStart_eq, Nat.add_assoc] using nack
  · simp [i2cRstart_eq, i2cStart_eq, dpAfterAcked_bytecnt, bytecnt_add]
  · simp [i2cRstart_eq, i2cStart_eq, i2csAfterSent_bus]
  · simp [i2cRstart_eq, i2cStart_eq, ackedAfter_zero]
  · simp [i2cRstart_eq, i2cStart_eq, sentEvents, dI2c, Nat.add_assoc]

/-- Settles O35: the request fails in its first part or in its second. -/
theorem i2cReadsStopAtTheFirstNack : Obligations.I2cReadsStopAtTheFirstNack := by
  intro i s cs n sent rest w operands nonzero idle
  rw [exec_i2cRead operands idle, i2cRead, i2cReadTransfer_send cs n _ nonzero]
  refine ⟨fun bytes acks high nack => ?_, fun k first second acks high nack => ?_⟩
  · rw [i2cReadHead_nack (s := clearByteCount (begin s)) bytes acks high nack, i2cReadPhase_failed, i2cStop_eq]
    refine congrArg Host.Outcome.next (State.eq_of_fields ?_ rfl rfl rfl rfl rfl rfl rfl rfl rfl ?_ rfl)
    · simp [concluded]
    · simp [concluded, dI2c]
  · rw [i2cReadHead_turn_nack (s := clearByteCount (begin s)) first second acks high nack, i2cReadPhase_failed, i2cStop_eq]
    refine congrArg Host.Outcome.next (State.eq_of_fields ?_ rfl rfl rfl rfl rfl rfl rfl rfl rfl ?_ rfl)
    · simp [concluded]
    · simp [concluded, dI2c]

/-- Settles O36: with no byte to read neither engine is touched. -/
theorem readsOfNothingAreQuiet : Obligations.ReadsOfNothingAreQuiet := by
  refine ⟨fun s m txp idle length => ?_, fun s idle => ?_, fun s m txp idle length => ?_, fun s idle => ?_⟩
  · show execTwReadCmdData m 0 txp s = _
    rw [execTwReadCmdData, twCapability_runs idle length]
    rfl
  · show execTwReadData 0 [] s = _
    rw [execTwReadData, twCapability_runs idle List.length_nil]
    rfl
  · show execI2cReadCmdData m 0 txp s = _
    rw [execI2cReadCmdData, i2cCapability_runs idle length]
    rfl
  · show execI2cReadData 0 [] s = _
    rw [execI2cReadData, i2cCapability_runs idle List.length_nil]
    rfl

/-! Whatever the target answers. -/

/-- A byte that is acknowledged has not timed out (R188). -/
theorem i2cTxOrdered_tmo {lsb : Bool} {x : Byte} {s : State} (acked : (i2cTxOrdered lsb x s).1 = false) :
    (i2cTxOrdered lsb x s).2.status.tmo = s.status.tmo := by
  rcases clockRises_or_stuck s with ⟨w, rises⟩ | stuck
  · rw [i2cTxOrdered_sampled lsb x w s rises]
    rfl
  · rw [i2cTxOrdered_stuck lsb x s stuck] at acked
    cases acked

/-- A step that leaves TMO alone where it succeeds. -/
def QuietOnSuccess (f : State → Bool × State) : Prop := ∀ s, (f s).1 = false → (f s).2.status.tmo = s.status.tmo

theorem QuietOnSuccess.ifAcked {f g : State → Bool × State} (hf : QuietOnSuccess f) (hg : QuietOnSuccess g) :
    QuietOnSuccess (fun s => Machine.ifAcked (f s) g) := by
  intro s acked
  cases first : (f s).1
  · simp only [ifAcked_ack _ first] at acked ⊢
    rw [hg _ acked, hf s first]
  · simp only [ifAcked_nack _ first] at acked ⊢
    exact hf s acked

theorem i2cSend_quiet (ws : List (Bool × Byte)) : QuietOnSuccess (i2cSend ws) := by
  induction ws with
  | nil => exact fun _ _ => rfl
  | cons w ws ih => exact QuietOnSuccess.ifAcked (f := i2cTxOrdered w.1 w.2) (fun _ => i2cTxOrdered_tmo) ih

theorem i2cReadHead_tmo {cs : List Byte} {s : State} (acked : (i2cReadHead cs s).1 = false) :
    (i2cReadHead cs s).2.status.tmo = s.status.tmo := by
  have second : QuietOnSuccess (fun t => if (readRequest s.cfg.i2c cs).2.isEmpty then (false, t)
      else i2cSend (readRequest s.cfg.i2c cs).2 (i2cRstart t)) := by
    intro t
    dsimp only
    split
    · exact fun _ => rfl
    · exact i2cSend_quiet _ (i2cRstart t)
  exact QuietOnSuccess.ifAcked (f := fun t => i2cSend (readRequest s.cfg.i2c cs).1 (i2cStart t))
    (fun t => i2cSend_quiet _ (i2cStart t)) second s acked

/-- A write that succeeds has not timed out (R193). -/
theorem i2cWrite_tmo {bs : List Byte} {s : State} (ok : (i2cWrite bs s).1 = true) :
    (i2cWrite bs s).2.status.tmo = s.status.tmo := by
  rw [i2cWrite_send] at ok ⊢
  have sent := i2cSend_quiet (wireBytes s.cfg.i2c (writeAddress s.cfg.i2c) bs) (i2cStart (clearByteCount s))
  generalize i2cSend _ (i2cStart (clearByteCount s)) = a at *
  exact sent (by simpa using ok)

/-- A read that succeeds has not timed out (R193). -/
theorem i2cRead_tmo {cs : List Byte} {n : Nat} {s : State} (ok : (i2cRead cs n s).1 = true) :
    (i2cRead cs n s).2.2.status.tmo = s.status.tmo := by
  by_cases nonzero : n = 0
  · subst nonzero
    rfl
  · rw [i2cRead, i2cReadTransfer_send cs n _ nonzero] at ok ⊢
    have head := i2cReadHead_tmo (cs := cs) (s := clearByteCount s)
    generalize i2cReadHead cs (clearByteCount s) = a at *
    obtain ⟨nack, t⟩ := a
    cases nack
    · rw [i2cReadPhase, if_neg Bool.false_ne_true, i2cRxAll_eq]
      exact head rfl
    · cases ok

/-- Settles O37. -/
theorem i2cOperationsLeaveTheBusIdle : Obligations.I2cOperationsLeaveTheBusIdle := by
  intro i s operation closed
  have idle : s.i2cs.bus = .idle := by rw [closed]
  have code : ∀ ok, ackCode ok = .ok ∨ ackCode ok = .ackf := by decide
  rcases operation with write | read
  · obtain ⟨bs, operands⟩ := Option.isSome_iff_exists.mp write
    have steps := i2cWrite_steps bs (begin s)
    have noRead : i2cReadOperands i = none := by
      cases i <;> first | rfl | cases operands
    refine ⟨_, exec_i2cWrite operands idle, code (i2cWrite bs (begin s)).1, i2cWrite_closed bs (begin s),
      steps.tws, ?_, fun _ _ => steps.effect.rxq, ?_, ?_⟩
    · exact ⟨steps.effect.cfg, steps.effect.ctlr, steps.effect.wbuf, steps.effect.refused, steps.effect.par,
        steps.effect.inbox⟩
    · simp [noRead]
    · intro timeout
      cases ok : (i2cWrite bs (begin s)).1
      · simp [ackCode]
      · exact absurd ((i2cWrite_tmo ok).symm.trans timeout) Bool.false_ne_true
  · obtain ⟨⟨cs, n⟩, operands⟩ := Option.isSome_iff_exists.mp read
    have steps := i2cRead_steps cs n (begin s)
    have noWrite : i2cWriteBytes i = none := by
      cases i <;> first | rfl | cases operands
    have empty : (i2cRead cs n (begin s)).2.2.rxq = [] := steps.effect.rxq
    refine ⟨_, exec_i2cRead operands idle, code (i2cRead cs n (begin s)).1, ?_, steps.tws, ?_, ?_, ?_, ?_⟩
    · by_cases nonzero : n = 0
      · subst nonzero
        exact closed
      · exact i2cRead_closed cs n _ nonzero
    · exact ⟨steps.effect.cfg, steps.effect.ctlr, steps.effect.wbuf, steps.effect.refused, steps.effect.par,
        steps.effect.inbox⟩
    · simp [noWrite]
    · intro cs' n' same
      obtain ⟨rfl, rfl⟩ : cs = cs' ∧ n = n' := by simpa [operands] using same
      have length := i2cRead_length cs n (begin s)
      cases ok : (i2cRead cs n (begin s)).1 <;> simp [empty, ok, ackCode] at length ⊢ <;> exact length
    · intro timeout
      cases ok : (i2cRead cs n (begin s)).1
      · simp [ackCode]
      · exact absurd ((i2cRead_tmo ok).symm.trans timeout) Bool.false_ne_true

end Sys2Proof.Machine
end

section
/-! PROOFS, family other: the timing of I2C transactions, and what a target hears of them, both read off the event lists of the
phases (41_i2c.md R183 to R191, R213, R214). -/

namespace Sys2Proof.Machine

set_option Elab.async false

/-! Events and phases. -/

theorem i2cStartEvents_measures (d : Nat) : Measures d 4 2 (i2cStartEvents d) := ⟨rfl, by simp [i2cStartEvents]; ring⟩

theorem i2cStopEvents_measures (d : Nat) : Measures d 6 3 (i2cStopEvents d) := ⟨rfl, by simp [i2cStopEvents]; ring⟩

theorem sdaEvent_duration (b : Bool) : eventDuration (sdaEvent b) = 0 := by cases b <;> rfl

theorem i2cBitEvents_measures (d : Nat) (b : Bool) : Measures d 5 2 (i2cBitEvents d b) :=
  ⟨rfl, by simp [i2cBitEvents, sdaEvent_duration]; ring⟩

theorem i2cSampleEvents_measures (d : Nat) (v : Bool) : Measures d 5 2 (i2cSampleEvents d v) :=
  ⟨rfl, by simp [i2cSampleEvents]; ring⟩

theorem i2cBits_measures (d : Nat) (lsb : Bool) (x : Byte) : Measures d 40 16 ((bitsIn lsb x).flatMap (i2cBitEvents d)) := by
  have whole := Measures.flatMap (i2cBitEvents_measures d) (bitsIn lsb x)
  rwa [bitsIn_length] at whole

/-- A byte acknowledged at once: 47 events, 18 phases (R213). -/
theorem i2cByteEvents_measures (d : Nat) (lsb : Bool) (x : Byte) : Measures d 47 18 (i2cByteEvents lsb d 0 false x) := by
  have ack : Measures d 7 2 (i2cAckEvents d 0 false) := ⟨rfl, by simp [i2cAckEvents, i2cWaitEvents]; ring⟩
  exact (i2cBits_measures d lsb x).append ack

theorem sentEvents_measures (d : Nat) (ws : List (Bool × Byte)) :
    Measures d (47 * ws.length) (18 * ws.length) (sentEvents d ws) :=
  Measures.flatMap (f := fun w : Bool × Byte => i2cByteEvents w.1 d 0 false w.2)
    (fun w => i2cByteEvents_measures d w.1 w.2) ws

/-- A byte received: 46 events, 18 phases (R213). -/
theorem i2cReceiveEvents_measures (d : Nat) (m : Bool) (f : Nat → Bool) : Measures d 46 18 (i2cReceiveEvents d m f) := by
  have release : Measures d 1 0 [.setInput .sda] := ⟨rfl, rfl⟩
  have bits := Measures.flatMap (fun i => i2cSampleEvents_measures d (f i)) (List.range 8)
  exact (release.append bits).append (i2cBitEvents_measures d m)

theorem i2cReadEvents_measures (d n : Nat) (f : Nat → Bool) : Measures d (46 * n) (18 * n) (i2cReadEvents d n f) := by
  have whole := Measures.flatMap
    (fun j => i2cReceiveEvents_measures d (decide (j + 1 = n)) (fun i => f (8 * j + i))) (List.range n)
  rwa [List.length_range] at whole

theorem writeAddress_a7 {c : I2cCfg} (mode : c.amode = .a7) : writeAddress c = [addr7Byte c.addr false] := by
  simp only [writeAddress, mode]

/-- A 7-bit write (R213). -/
theorem transactionEvents_measures {c : I2cCfg} (mode : c.amode = .a7) (d : Nat) (bs : List Byte) :
    Measures d (57 + 47 * bs.length) (23 + 18 * bs.length + 0) (transactionEvents c d bs) := by
  have sent := sentEvents_measures d (wireBytes c (writeAddress c) bs)
  have count : (wireBytes c (writeAddress c) bs).length = 1 + bs.length := by
    simp [wireBytes, writeAddress_a7 mode, Nat.add_comm]
  rw [count] at sent
  exact (((i2cStartEvents_measures d).append sent).append (i2cStopEvents_measures d)).of_eq (by omega) (by omega)

theorem readRequest_a7 {c : I2cCfg} (mode : c.amode = .a7) :
    readRequest c [] = (wireBytes c [addr7Byte c.addr true] [], []) := by
  simp [readRequest, readAddress, mode]

/-- A 7-bit read with no command bytes (R213). -/
theorem i2cReadTransaction_measures {c : I2cCfg} (mode : c.amode = .a7) (d n : Nat) (f : Nat → Bool) :
    Measures d (57 + 46 * n) (23 + 18 * n) (i2cReadTransaction c d [] n f) := by
  have sent := sentEvents_measures d (wireBytes c [addr7Byte c.addr true] [])
  have count : (wireBytes c [addr7Byte c.addr true] []).length = 1 := rfl
  rw [count] at sent
  have noTurn : Measures d 0 0 [] := ⟨rfl, rfl⟩
  rw [i2cReadTransaction, readRequest_a7 mode]
  exact (((((i2cStartEvents_measures d).append sent).append noTurn).append (i2cReadEvents_measures d n f)).append
    (i2cStopEvents_measures d)).of_eq (by omega) (by omega)

theorem i2cWaitEvents_length (w : Nat) : (i2cWaitEvents w).length = 2 * w := by
  simp [i2cWaitEvents, Nat.mul_comm]

theorem i2cWaitEvents_duration (w : Nat) : duration (i2cWaitEvents w) = w := by
  induction w with
  | zero => rfl
  | succ w ih => simp [i2cWaitEvents_succ, ih, Nat.add_comm]

/-- A byte whose poll times out after `w` waits (R188, R457). -/
theorem i2cTimeout_measures (d w : Nat) (lsb : Bool) (x : Byte) :
    ((bitsIn lsb x).flatMap (i2cBitEvents d) ++ i2cTimeoutEvents d w).length = 45 + 2 * w ∧
      duration ((bitsIn lsb x).flatMap (i2cBitEvents d) ++ i2cTimeoutEvents d w) = 17 * d + w := by
  obtain ⟨length, phases⟩ := i2cBits_measures d lsb x
  constructor
  · simp [length, i2cTimeoutEvents, i2cWaitEvents_length]
    omega
  · simp [phases, i2cTimeoutEvents, i2cWaitEvents_duration]
    ring

/-- A command that ends where a transaction does has the transaction's trace. -/
theorem finished_trace {rc : RC} {bytes : List Byte} {es : List Event} {s t : State} (trace : t.trace = s.trace) :
    (finished rc (emitAll bytes (withEvents es t))).trace = s.trace ++ es := by
  rw [← trace]
  exact withEvents_trace es t

/-- The trace of a write acknowledged at once (R194). -/
theorem exec_i2cWrite_trace {i : Instr} {s : State} {bs : List Byte} (operands : i2cWriteBytes i = some bs)
    (idle : s.i2cs.bus = .idle) (acks : acksAtOnce s ((writeAddress s.cfg.i2c).length + bs.length)) :
    ∃ t, exec i s = .next t ∧ t.trace = s.trace ++ transactionEvents s.cfg.i2c (dI2c s) bs := by
  refine ⟨_, i2cWritesAcknowledged i s bs operands idle acks, ?_⟩
  exact withEvents_trace _ s

/-- The trace of a read acknowledged at once (R197). -/
theorem exec_i2cRead_trace {i : Instr} {s : State} {cs : List Byte} {n : Nat} (operands : i2cReadOperands i = some (cs, n))
    (nonzero : n ≠ 0) (idle : s.i2cs.bus = .idle) (acks : acksAtOnce s (readRequestLength s.cfg.i2c cs)) :
    ∃ t, exec i s = .next t ∧ t.trace = s.trace ++ i2cReadTransaction s.cfg.i2c (dI2c s) cs n
      (fun j => answerAt s (2 * readRequestLength s.cfg.i2c cs + j)) := by
  refine ⟨_, i2cReadsAcknowledged i s cs n _ operands nonzero idle rfl acks, ?_⟩
  exact withEvents_trace _ s

/-- The trace of a write whose first byte times out (R193). -/
theorem exec_i2cWrite_stuck_trace {i : Instr} {s : State} {bs : List Byte} {w : Bool × Byte} {rest : List (Bool × Byte)}
    (operands : i2cWriteBytes i = some bs) (idle : s.i2cs.bus = .idle)
    (bytes : wireBytes s.cfg.i2c (writeAddress s.cfg.i2c) bs = w :: rest) (stuck : clockStuck s) :
    ∃ t, exec i s = .next t ∧ t.trace = s.trace ++ (i2cStartEvents (dI2c s) ++
      ((bitsIn w.1 w.2).flatMap (i2cBitEvents (dI2c s)) ++ i2cTimeoutEvents (dI2c s) s.cfg.i2c.tack.toNat) ++
        i2cStopEvents (dI2c s)) := by
  have failed := (i2cWritesStopAtTheFirstFailure i s bs [] rest w operands idle bytes
    (fun j hj => absurd hj (Nat.not_lt_zero j))).2 (fun j hj => by simpa using stuck j hj)
  refine ⟨_, failed, (withEvents_trace _ s).trans ?_⟩
  simp [sentEvents]

/-- Settles O38. -/
theorem i2cCommandTiming : Obligations.I2cCommandTiming := by
  intro i s mode idle
  refine ⟨fun bs operands acks => ?_, fun n operands nonzero acks => ?_, fun bs operands stuck => ?_⟩
  · have count : (writeAddress s.cfg.i2c).length + bs.length = bs.length + 1 := by
      rw [writeAddress_a7 mode, List.length_singleton, Nat.add_comm]
    obtain ⟨t, next, trace⟩ := exec_i2cWrite_trace operands idle (by rwa [count])
    obtain ⟨length, phases⟩ := transactionEvents_measures mode (dI2c s) bs
    exact ⟨t, _, next, trace, length, phases.trans (by ring)⟩
  · have count : readRequestLength s.cfg.i2c [] = 1 := by
      rw [readRequestLength, readRequest_a7 mode]
      rfl
    obtain ⟨t, next, trace⟩ := exec_i2cRead_trace operands nonzero idle (by rwa [count])
    obtain ⟨length, phases⟩ := i2cReadTransaction_measures mode (dI2c s) n
      (fun j => answerAt s (2 * readRequestLength s.cfg.i2c [] + j))
    exact ⟨t, _, next, trace, length, phases.trans (by ring)⟩
  · obtain ⟨w, rest, bytes⟩ : ∃ w rest, wireBytes s.cfg.i2c (writeAddress s.cfg.i2c) bs = w :: rest := by
      rw [writeAddress_a7 mode]
      exact ⟨_, _, rfl⟩
    obtain ⟨t, next, trace⟩ := exec_i2cWrite_stuck_trace operands idle bytes stuck
    obtain ⟨startLength, startPhases⟩ := i2cStartEvents_measures (dI2c s)
    obtain ⟨stopLength, stopPhases⟩ := i2cStopEvents_measures (dI2c s)
    obtain ⟨byteLength, byteTime⟩ := i2cTimeout_measures (dI2c s) s.cfg.i2c.tack.toNat w.1 w.2
    refine ⟨t, _, next, trace, ?_, ?_⟩
    · rw [List.length_append, List.length_append, startLength, byteLength, stopLength]
      omega
    · rw [duration_append, duration_append, startPhases, byteTime, stopPhases]
      ring

/-! What a target hears (R214). -/

/-- A target in a transaction, between bits, that has heard these symbols. -/
structure Clocked (t : I2cEar) (symbols : List I2cSymbol) : Prop where
  scl : t.sclHigh = false
  idle : t.clocked = none
  symbols : t.symbols = symbols

/-- What is heard of a byte sent, with its acknowledge bit (R189, R214). -/
def byteSymbols (w : Bool × Byte) : List I2cSymbol := (bitsIn w.1 w.2).map .bit ++ [.bit false]

theorem Clocked.bit {t : I2cEar} {symbols : List I2cSymbol} (h : Clocked t symbols) (d : Nat) (b : Bool) :
    Clocked ((i2cBitEvents d b).foldl i2cHear t) (symbols ++ [.bit b]) := by
  obtain ⟨scl, idle, rfl⟩ := h
  cases b <;> exact ⟨rfl, rfl, by simp [i2cBitEvents, sdaEvent, i2cHear, scl]⟩

theorem Clocked.bits {symbols : List I2cSymbol} (d : Nat) (bs : List Bool) {t : I2cEar} (h : Clocked t symbols) :
    Clocked ((bs.flatMap (i2cBitEvents d)).foldl i2cHear t) (symbols ++ bs.map .bit) := by
  induction bs generalizing t symbols with
  | nil => simpa using h
  | cons b bs ih =>
    rw [List.flatMap_cons, List.foldl_append]
    simpa using ih (h.bit d b)

/-- The acknowledge bit is the target's own (R188, R214). -/
theorem Clocked.ack {t : I2cEar} {symbols : List I2cSymbol} (h : Clocked t symbols) (d : Nat) (a : Bool) :
    Clocked ((i2cAckEvents d 0 a).foldl i2cHear t) (symbols ++ [.bit a]) := by
  obtain ⟨scl, idle, rfl⟩ := h
  exact ⟨rfl, rfl, by simp [i2cAckEvents, i2cWaitEvents, i2cHear, scl]⟩

theorem Clocked.byte {t : I2cEar} {symbols : List I2cSymbol} (h : Clocked t symbols) (d : Nat) (w : Bool × Byte) :
    Clocked ((i2cByteEvents w.1 d 0 false w.2).foldl i2cHear t) (symbols ++ byteSymbols w) := by
  rw [i2cByteEvents, List.foldl_append, byteSymbols, ← List.append_assoc]
  exact (h.bits d _).ack d false

theorem Clocked.sent {symbols : List I2cSymbol} (d : Nat) (ws : List (Bool × Byte)) {t : I2cEar} (h : Clocked t symbols) :
    Clocked ((sentEvents d ws).foldl i2cHear t) (symbols ++ ws.flatMap byteSymbols) := by
  induction ws generalizing t symbols with
  | nil => simpa [sentEvents] using h
  | cons w ws ih =>
    rw [sentEvents, List.flatMap_cons, List.foldl_append, List.flatMap_cons, ← List.append_assoc]
    exact ih (h.byte d w)

/-- A sampled bit is the target's own (R187, R214). -/
theorem Clocked.sample {t : I2cEar} {symbols : List I2cSymbol} (h : Clocked t symbols) (d : Nat) (v : Bool) :
    Clocked ((i2cSampleEvents d v).foldl i2cHear t) (symbols ++ [.bit v]) := by
  obtain ⟨scl, idle, rfl⟩ := h
  exact ⟨rfl, rfl, by simp [i2cSampleEvents, i2cHear, scl]⟩

theorem Clocked.samples {symbols : List I2cSymbol} (d : Nat) (f : Nat → Bool) (l : List Nat) {t : I2cEar}
    (h : Clocked t symbols) :
    Clocked ((l.flatMap (fun i => i2cSampleEvents d (f i))).foldl i2cHear t) (symbols ++ l.map (fun i => .bit (f i))) := by
  induction l generalizing t symbols with
  | nil => simpa using h
  | cons i l ih =>
    rw [List.flatMap_cons, List.foldl_append]
    simpa using ih (h.sample d (f i))

/-- SDA released while SCL is low is not heard (R214). -/
theorem Clocked.release {t : I2cEar} {symbols : List I2cSymbol} (h : Clocked t symbols) :
    Clocked (i2cHear t (.setInput .sda)) symbols := by
  obtain ⟨scl, idle, rfl⟩ := h
  exact ⟨by simp [i2cHear, scl], by simp [i2cHear, scl, idle], by simp [i2cHear, scl]⟩

theorem Clocked.receive {t : I2cEar} {symbols : List I2cSymbol} (h : Clocked t symbols) (d : Nat) (m : Bool) (f : Nat → Bool) :
    Clocked ((i2cReceiveEvents d m f).foldl i2cHear t)
      (symbols ++ ((List.range 8).map (fun b => .bit (f b)) ++ [.bit m])) := by
  rw [i2cReceiveEvents, List.foldl_append, List.foldl_append, ← List.append_assoc]
  exact (h.release.samples d f (List.range 8)).bit d m

theorem Clocked.receives {symbols : List I2cSymbol} (d : Nat) (last : Nat → Bool) (f : Nat → Nat → Bool) (l : List Nat)
    {t : I2cEar} (h : Clocked t symbols) :
    Clocked ((l.flatMap (fun j => i2cReceiveEvents d (last j) (f j))).foldl i2cHear t)
      (symbols ++ l.flatMap (fun j => (List.range 8).map (fun b => .bit (f j b)) ++ [.bit (last j)])) := by
  induction l generalizing t symbols with
  | nil => simpa using h
  | cons j l ih =>
    rw [List.flatMap_cons, List.foldl_append, List.flatMap_cons, ← List.append_assoc]
    exact ih (h.receive d (last j) (f j))

/-- A repeated START is heard as a START (R184, R214). -/
theorem Clocked.rstart {t : I2cEar} {symbols : List I2cSymbol} (h : Clocked t symbols) (d : Nat) :
    Clocked ((i2cRstartEvents d).foldl i2cHear t) (symbols ++ [.start]) := by
  obtain ⟨scl, idle, rfl⟩ := h
  exact ⟨rfl, rfl, by simp [i2cRstartEvents, i2cHear, scl]⟩

theorem Clocked.stop {t : I2cEar} {symbols : List I2cSymbol} (h : Clocked t symbols) (d : Nat) :
    ((i2cStopEvents d).foldl i2cHear t).symbols = symbols ++ [.stop] := by
  obtain ⟨scl, idle, rfl⟩ := h
  simp [i2cStopEvents, i2cHear, scl]

/-- A target on an idle bus. -/
def idleTarget : I2cEar := { sdaHigh := true, sclHigh := true, clocked := none, symbols := [] }

theorem clocked_start (d : Nat) : Clocked ((i2cStartEvents d).foldl i2cHear idleTarget) [.start] := ⟨rfl, rfl, rfl⟩

/-- What is heard of a write (R194, R214). -/
theorem i2cSymbolsSeen_write (c : I2cCfg) (d : Nat) (bs : List Byte) :
    i2cSymbolsSeen (transactionEvents c d bs) =
      .start :: (wireBytes c (writeAddress c) bs).flatMap byteSymbols ++ [.stop] := by
  have heard := ((clocked_start d).sent d (wireBytes c (writeAddress c) bs)).stop d
  rwa [← List.foldl_append, ← List.foldl_append] at heard

/-- The second part of a read's request, where there is one (R197, R214). -/
theorem Clocked.turn {t : I2cEar} {symbols : List I2cSymbol} (h : Clocked t symbols) (d : Nat) (ws : List (Bool × Byte)) :
    Clocked ((if ws.isEmpty then [] else i2cRstartEvents d ++ sentEvents d ws).foldl i2cHear t)
      (symbols ++ if ws.isEmpty then [] else .start :: ws.flatMap byteSymbols) := by
  split
  · simpa using h
  · rw [List.foldl_append, List.append_cons]
    exact (h.rstart d).sent d ws

/-- What is heard of a read (R197, R214). -/
theorem i2cSymbolsSeen_read (c : I2cCfg) (d : Nat) (cs : List Byte) (n : Nat) (f : Nat → Bool) :
    i2cSymbolsSeen (i2cReadTransaction c d cs n f) =
      .start :: (readRequest c cs).1.flatMap byteSymbols ++
        (if (readRequest c cs).2.isEmpty then [] else .start :: (readRequest c cs).2.flatMap byteSymbols) ++
        (List.range n).flatMap (fun j => (List.range 8).map (fun b => .bit (f (8 * j + b))) ++ [.bit (decide (j + 1 = n))]) ++
        [.stop] := by
  have heard := ((((clocked_start d).sent d (readRequest c cs).1).turn d (readRequest c cs).2).receives d
    (fun j => decide (j + 1 = n)) (fun j b => f (8 * j + b)) (List.range n)).stop d
  simp only [← List.foldl_append] at heard
  rw [i2cSymbolsSeen, i2cReadTransaction]
  simp only [List.append_assoc] at heard ⊢
  exact heard

/-- Settles O39: the trace of the command is that of its transaction. -/
theorem i2cTargetSeesTheTransaction : Obligations.I2cTargetSeesTheTransaction := by
  intro i s sent idle sentIs
  obtain rfl : sent = fun ws => ws.flatMap byteSymbols := funext sentIs
  refine ⟨fun bs operands acks => ?_, fun cs n k operands nonzero requested acks => ?_⟩
  · obtain ⟨t, next, trace⟩ := exec_i2cWrite_trace operands idle acks
    exact ⟨t, _, next, trace, i2cSymbolsSeen_write _ _ _⟩
  · subst requested
    obtain ⟨t, next, trace⟩ := exec_i2cRead_trace operands nonzero idle acks
    exact ⟨t, _, next, trace, i2cSymbolsSeen_read _ _ _ _ _⟩

end Sys2Proof.Machine
end

section
/-! PROOFS, family other: the controller's commands that use no bus: those that answer, those that write a register, those that
are refused, everything on DUMMY, and the glyphs and clock frames of the datapath (42_controller.md; 44_backends.md R362 to R367;
43_layout.md R308, R309). -/

namespace Sys2Proof.Machine

set_option Elab.async false

/-! Commands that answer. -/

/-- A controller command that finishes OK at once (R261, R408). -/
theorem controller_finishes {need : Nat} {txp : List Byte} {f : State → State} {s : State} (idle : bothIdle s)
    (length : txp.length = need) :
    controller need txp (fun u => finish .ok (f u)) s = .next (finished .ok (f (begin s))) :=
  controller_runs idle length

/-- Settles O40. -/
theorem gettersReturnTheRegisters : Obligations.GettersReturnTheRegisters := by
  intro s idle
  refine ⟨?_, ?_, ?_, ?_, ?_⟩
  · show execCtlGetBrightness [] s = _
    rw [execCtlGetBrightness, controller_finishes idle List.length_nil]
    rfl
  · show execCtlGetPower [] s = _
    rw [execCtlGetPower, controller_finishes idle List.length_nil]
    rfl
  · show execCtlGetDescriptor [] s = _
    rw [execCtlGetDescriptor, controller_finishes idle List.length_nil]
    rfl
  · show execCtlGetMode [] s = _
    rw [execCtlGetMode, controller_finishes idle List.length_nil]
    rfl
  · show execMiscGetVersion [] s = _
    rw [execMiscGetVersion, controller_finishes idle List.length_nil]
    rfl

/-! Commands that write a register. -/

theorem txpWord_pair (lo hi : Byte) : txpWord [lo, hi] 0 = hi ++ lo := by
  rw [BitVec.append_def, BitVec.shiftLeftZeroExtend_eq, BitVec.setWidth'_eq]
  rfl

/-- The payload of an order: its entries as bytes. -/
def orderBytes (o : Seven (Fin 7)) : List Byte := o.toList.map (fun i => BitVec.ofNat 8 i.val)

theorem entry_le_six (i : Fin 7) : (BitVec.ofNat 8 i.val).toNat ≤ 6 := by
  revert i; decide

theorem orderLegal_orderBytes (o : Seven (Fin 7)) : orderLegal (orderBytes o) = true := by
  simp only [orderLegal, orderBytes, List.all_map, List.all_eq_true]
  exact fun i _ => decide_eq_true (entry_le_six i)

theorem orderEntry_byte (i : Fin 7) : orderEntry (BitVec.ofNat 8 i.val) = i := by
  revert i; decide

/-- The entries of an order are read back from its payload (R252). -/
theorem order_of_orderBytes (o : Seven (Fin 7)) : Seven.ofFn (fun i => orderEntry (txpByte (orderBytes o) i.val)) = o := by
  apply Seven.eq_of_get
  intro k
  rw [Seven.get_ofFn]
  match k with
  | 0 | 1 | 2 | 3 | 4 | 5 | 6 => exact orderEntry_byte _

/-- CTL.SET_ORDER past its checks (R252). -/
theorem exec_ctlSetOrder_idle {txp : List Byte} {s : State} (idle : bothIdle s) (length : txp.length = 7) :
    exec (.ctlSetOrder txp) s = if orderLegal txp then finish .ok (setOrder txp (begin s)) else raise .reject (begin s) := by
  show execCtlSetOrder txp s = _
  rw [execCtlSetOrder, controller_runs idle length]

/-- Settles O41. -/
theorem settersWriteTheirRegister : Obligations.SettersWriteTheirRegister := by
  intro s idle
  refine ⟨fun id m mask => ?_, fun lo hi => ?_, fun v => ?_, fun o => ?_⟩
  · have runs (on : Bool) : exec (.ctlSetIcon id on []) s =
        .next (answered .ok [] { s with ctlr := { s.ctlr with icon := iconWith s.ctlr.icon m on } }) := by
      show execCtlSetIcon id on [] s = _
      rw [execCtlSetIcon, controller_finishes idle List.length_nil, mask]
      rfl
    exact ⟨runs true, runs false⟩
  · show execCtlSetIndicatorMask [lo, hi] s = _
    rw [execCtlSetIndicatorMask, controller_finishes idle (show [lo, hi].length = 2 from rfl), txpWord_pair]
    rfl
  · show execCtlSetMode v [] s = _
    rw [execCtlSetMode, controller_finishes idle List.length_nil]
    rfl
  · have order := order_of_orderBytes o
    show exec (.ctlSetOrder (orderBytes o)) s = _
    rw [exec_ctlSetOrder_idle idle rfl, if_pos (orderLegal_orderBytes o), setOrder, order]
    rfl

/-! The OLED commands by backend. -/

theorem onOled_unsupported {effect : Rev → State → Result} {s : State}
    (active : s.ctlr.active = .led ∨ s.ctlr.active = .lcd) :
    onOled effect (begin s) = .next (rejected .unsupported s) := by
  unfold onOled
  rcases active with active | active <;> rw [begin_ctlr, active] <;> rfl

theorem onOled_dummy {effect : Rev → State → Result} {s : State} (active : s.ctlr.active = .dummy) :
    onOled effect (begin s) = .next (answered .ok [] s) := by
  unfold onOled
  rw [begin_ctlr, active]
  rfl

/-- The revision of an OLED backend. -/
def revOf (b : Backend) : Rev := if b = .oledA then .a else .b

theorem onOled_oled {effect : Rev → State → Result} {s : State} (active : s.ctlr.active = .oledA ∨ s.ctlr.active = .oledB) :
    onOled effect (begin s) = effect (revOf s.ctlr.active) (begin s) := by
  unfold onOled
  rcases active with active | active <;> rw [begin_ctlr, active] <;> rfl

theorem exec_oledCmd_idle {n : Len} {txp : List Byte} {s : State} (idle : bothIdle s) (length : txp.length = n.toNat) :
    exec (.oledCmd n txp) s = onOled (fun _ u => finishAck (run [oledCmd txp] u)) (begin s) := by
  show execOledCmd n txp s = _
  rw [execOledCmd, controller_runs idle length]

theorem exec_oledData_idle {n : Len} {txp : List Byte} {s : State} (idle : bothIdle s) (length : txp.length = n.toNat) :
    exec (.oledData n txp) s = onOled (fun _ u => finishAck (run [oledData txp] u)) (begin s) := by
  show execOledData n txp s = _
  rw [execOledData, controller_runs idle length]

theorem exec_oledClear_idle {s : State} (idle : bothIdle s) :
    exec (.oledClear []) s = onOled (fun r u => finishAck (run (oledClear u.par r) u)) (begin s) := by
  show execOledClear [] s = _
  rw [execOledClear, controller_runs idle List.length_nil]

/-- OLED.WINDOW's own checks and its effect (R364). -/
def oledWindowEffect (n : Len) (txp : List Byte) (r : Rev) (u : State) : Result :=
  if windowInside u.par (txpByte txp 0) (txpByte txp 1) (txpByte txp 2) (txpByte txp 3) then
    if n.toNat = windowArea (txpByte txp 0) (txpByte txp 1) (txpByte txp 2) (txpByte txp 3) then
      finishAck (run (oledWindow u.par r (txpByte txp 0) (txpByte txp 1) (txpByte txp 2) (txpByte txp 3) (txp.drop 4)) u)
    else raise .length u
  else raise .reject u

theorem exec_oledWindow_idle {n : Len} {txp : List Byte} {s : State} (idle : bothIdle s) (length : txp.length = 4 + n.toNat) :
    exec (.oledWindow n txp) s = onOled (oledWindowEffect n txp) (begin s) := by
  show execOledWindow n txp s = _
  rw [execOledWindow, controller_runs idle length]
  rfl

/-- A window command with its window written out (R364). -/
theorem exec_oledWindow_oled {n : Len} {c0 c1 p0 p1 : Byte} {data : List Byte} {s : State} (idle : bothIdle s)
    (active : s.ctlr.active = .oledA ∨ s.ctlr.active = .oledB) (length : data.length = n.toNat) :
    exec (.oledWindow n (c0 :: c1 :: p0 :: p1 :: data)) s =
      oledWindowEffect n (c0 :: c1 :: p0 :: p1 :: data) (revOf s.ctlr.active) (begin s) := by
  rw [exec_oledWindow_idle idle (by simp [length]; omega), onOled_oled active]

theorem windowInside_iff (p : Params) (c0 c1 p0 p1 : Byte) :
    windowInside p c0 c1 p0 p1 = true ↔ c0 ≤ c1 ∧ c1.toNat < p.oledCols ∧ p0 ≤ p1 ∧ p1.toNat < p.oledBanks := by
  simp [windowInside, BitVec.le_def]

theorem windowInside_false {p : Params} {c0 c1 p0 p1 : Byte}
    (outside : c1 < c0 ∨ p.oledCols ≤ c1.toNat ∨ p1 < p0 ∨ p.oledBanks ≤ p1.toNat) :
    windowInside p c0 c1 p0 p1 = false := by
  rw [Bool.eq_false_iff, Ne, windowInside_iff]
  simp only [BitVec.lt_def, BitVec.le_def] at *
  omega

/-! Refused operands. -/

/-- CTL.WRITE_DISPLAY_FRAME past the payload check (R251). -/
theorem exec_ctlWriteDisplayFrame_idle {n : Len} {txp : List Byte} {s : State} (idle : bothIdle s)
    (length : txp.length = n.toNat) :
    exec (.ctlWriteDisplayFrame n txp) s =
      if n.toNat ≠ s.par.ddSize then .next (rejected .length s)
      else
        match s.ctlr.active with
        | .led => finishAck (ledEmit (layOut (displayFrame (begin s) (ddDecode s.par txp)) (begin s)))
        | .dummy => .next (answered .ok [] s)
        | _ => .refused .renderingEngine := by
  show execCtlWriteDisplayFrame n txp s = _
  rw [execCtlWriteDisplayFrame, controller_runs idle length, begin_par, begin_ctlr]
  cases s.ctlr.active <;> rfl

/-- CTL.WRITE_RAW past the payload check (R250). -/
theorem exec_ctlWriteRaw_idle {n : Len} {txp : List Byte} {s : State} (idle : bothIdle s)
    (length : txp.length = 2 * n.toNat) :
    exec (.ctlWriteRaw n txp) s =
      if 7 < n.toNat then .next (rejected .length s)
      else
        match s.ctlr.active with
        | .led => finishCount n (ledEmit (layOut (rawFrame n.toNat txp) (begin s)))
        | .lcd => finishCount n (run (lcdRawCmds (begin s) (rawFrame n.toNat txp) n.toNat) (begin s))
        | .dummy => finishCount n (true, begin s)
        | _ => .next (rejected .unsupported s) := by
  show execCtlWriteRaw n txp s = _
  rw [execCtlWriteRaw, controller_runs idle length, begin_ctlr]
  cases s.ctlr.active <;> rfl

theorem orderLegal_false {txp : List Byte} (bad : ∃ b, b ∈ txp ∧ 6 < b.toNat) : orderLegal txp = false := by
  obtain ⟨b, mem, big⟩ := bad
  simp only [orderLegal, List.all_eq_false]
  exact ⟨b, mem, by simpa using big⟩

/-- Settles O42, check by check. -/
theorem refusedOperands : Obligations.RefusedOperands := by
  intro s idle
  refine ⟨fun l high => ?_, fun ty a f k high => ?_, fun txp length bad => ?_,
    fun n txp length => ⟨fun many => ?_, fun few oled => ?_⟩,
    fun n txp length => ⟨fun size => ?_, fun size active => ?_⟩,
    fun active => ⟨fun n txp length => ⟨?_, ?_⟩, fun n txp length => ?_, ?_⟩,
    fun active n c0 c1 p0 p1 data length => ⟨fun outside => ?_, fun hc hcols hp hbanks area => ?_⟩⟩
  · show execCtlSetBrightness l [] s = _
    rw [execCtlSetBrightness, controller_runs idle List.length_nil, begin_par, begin_ctlr, if_pos high]
    rfl
  · show execCtlSetDescriptor [ty, a, f, k] s = _
    rw [execCtlSetDescriptor, controller_runs idle (show [ty, a, f, k].length = 4 from rfl), begin_par]
    exact if_pos high
  · rw [exec_ctlSetOrder_idle idle length, orderLegal_false bad]
    rfl
  · rw [exec_ctlWriteRaw_idle idle length, if_pos many]
  · rw [exec_ctlWriteRaw_idle idle length, if_neg (Nat.not_lt.mpr few)]
    rcases oled with active | active <;> rw [active]
  · rw [exec_ctlWriteDisplayFrame_idle idle length, if_pos size]
  · rw [exec_ctlWriteDisplayFrame_idle idle length, if_neg (not_not_intro size)]
    rcases active with active | active | active <;> rw [active]
  · rw [exec_oledCmd_idle idle length, onOled_unsupported active]
  · rw [exec_oledData_idle idle length, onOled_unsupported active]
  · rw [exec_oledWindow_idle idle length, onOled_unsupported active]
  · rw [exec_oledClear_idle idle, onOled_unsupported active]
  · rw [exec_oledWindow_oled idle active length]
    exact if_neg (by simpa [txpByte] using windowInside_false outside)
  · have inside := (windowInside_iff s.par c0 c1 p0 p1).2 ⟨hc, hcols, hp, hbanks⟩
    rw [exec_oledWindow_oled idle active length]
    exact (if_pos inside).trans (if_neg area)

/-! DUMMY. -/

theorem sendBrightness_dummy {s : State} (active : s.ctlr.active = .dummy) (none : s.par.brightCmd = []) :
    sendBrightness s = (true, s) := by
  rw [sendBrightness, brightCmd_default none, active]
  rfl

/-- Settles O43. -/
theorem dummyAcceptsEverything : Obligations.DummyAcceptsEverything := by
  intro s idle active none
  refine ⟨fun l level => ?_, fun on => ?_, fun n => ?_, fun n txp length few => ?_,
    fun n txp length => ⟨fun size => ?_, ?_, ?_⟩, fun n txp length => ?_, ?_⟩
  · have written : (setBright l (begin s)).ctlr.active = .dummy := active
    rw [exec_ctlSetBrightness_idle idle (by rwa [active]), sendBrightness_dummy written none]
    rfl
  · have written : (setPower on (begin s)).ctlr.active = .dummy := active
    rw [exec_ctlSetPower_idle on idle, sendBrightness_dummy written none]
    rfl
  · show execCtlReadRaw n [] s = _
    rw [execCtlReadRaw, controller_runs idle List.length_nil, rawRead, begin_ctlr, active]
    rfl
  · rw [exec_ctlWriteRaw_idle idle length, if_neg (Nat.not_lt.mpr few), active]
    rfl
  · rw [exec_ctlWriteDisplayFrame_idle idle length, if_neg (not_not_intro size), active]
  · rw [exec_oledCmd_idle idle length, onOled_dummy active]
  · rw [exec_oledData_idle idle length, onOled_dummy active]
  · rw [exec_oledWindow_idle idle length, onOled_dummy active]
  · rw [exec_oledClear_idle idle, onOled_dummy active]

/-! Glyphs and clock frames. -/

/-- DP.LED_CLOCK past its payload check (R330). -/
theorem exec_dpLedClock (ss mm : BitVec 6) (colon : Bool) (hh : BitVec 5) (s : State) :
    exec (.dpLedClock ss colon hh mm []) s =
      if 23 < hh.toNat ∨ 59 < mm.toNat ∨ 59 < ss.toNat then .next (rejected .reject s)
      else .next (answered .ok (frameBytes (ledClock s hh.toNat mm.toNat ss.toNat colon)) s) := by
  show execDpLedClock ss colon hh mm [] s = _
  rw [execDpLedClock, datapath, command_runs rfl List.length_nil]
  rfl

/-- Settles O60. -/
theorem glyphsAndClockFrames : Obligations.GlyphsAndClockFrames := by
  intro s glyph isGlyph
  obtain rfl : glyph = digitMask s.par := funext isGlyph
  refine ⟨fun code => ?_, fun ss mm colon hh => ⟨fun hours minutes seconds => ?_, fun bad => ?_⟩⟩
  · show execDpCharToMask code [] s = _
    rw [execDpCharToMask, datapath, command_runs rfl List.length_nil]
    rfl
  · rw [exec_dpLedClock, if_neg (by omega)]
    rfl
  · rw [exec_dpLedClock, if_pos bad]

end Sys2Proof.Machine
end

section
/-! PROOFS, family other: brightness, power and INIT on the bus. Over TW a bus command is one frame; over I2C, acknowledged, a list of
bus commands is its transactions in order; INIT is such a list too (42_controller.md R241, R243, R245; 44_backends.md R344 to R368). -/

namespace Sys2Proof.Machine

set_option Elab.async false

/-! LED over TW. -/

/-- One bus command over TW is one frame (R345). -/
theorem busWrite_tw {s : State} (bus : busOf s.par s.ctlr.active = .tw) (cs ds : List Byte) :
    busWrite cs ds s = (true, twWriteFrame (cs ++ ds) s) := by
  rw [busWrite, bus]

theorem sendBrightness_led {s : State} (led : LedOverTw s) :
    sendBrightness s = (true, twWriteFrame [(if s.ctlr.power then 0x88 else 0x80) ||| (s.ctlr.bright &&& 0x07)] s) := by
  rw [sendBrightness, brightCmd_default led.table, led.active, brightCmdDefault, ledBrightByte_eq]
  simp only [run, busWrite_tw led.busOf_active, Bool.and_true, List.append_nil]

/-- A frame of one byte and the end of its command, the registers as the command wrote them (R161, R345). -/
theorem finishAck_twWriteFrame (bs : List Byte) (s : State) :
    finishAck (true, twWriteFrame bs (begin s)) = .next (answered .ok []
      (withEvents (twFrameEvents (d3 s) bs) { s with dp := dpAfterSent bs.length s.dp, tws := twClosed bs.length s.tws })) := by
  rw [twWriteFrame_eq]
  rfl

/-- Settles O44. -/
theorem ledBrightnessAndPower : Obligations.LedBrightnessAndPower := by
  intro s idle active bus table
  refine ⟨fun l level => ?_, fun on => ?_⟩
  · have led : LedOverTw (setBright l (begin s)) := ⟨active, bus, table⟩
    rw [exec_ctlSetBrightness_led idle active level, sendBrightness_led led, setBright_ctlr, low_level level]
    exact finishAck_twWriteFrame _ { s with ctlr := { s.ctlr with bright := l } }
  · have led : LedOverTw (setPower on (begin s)) := ⟨active, bus, table⟩
    rw [exec_ctlSetPower_idle on idle, sendBrightness_led led]
    exact finishAck_twWriteFrame _ { s with ctlr := { s.ctlr with power := on } }

/-! Acknowledged I2C. -/

/-- A list of bus commands over I2C, acknowledged, and the end of its command (R345). -/
theorem finish_run_acked {cmds : List Cmd} {s : State} (bytes : List Byte) (closed : s.i2cs = i2cClosed)
    (bus : busOf s.par s.ctlr.active = .i2c) (acks : acksAtOnce s (runBytes s.cfg.i2c cmds)) :
    finish (ackCode (run cmds (begin s)).1) (emitAll bytes (run cmds (begin s)).2) = .next (acknowledgedRun cmds bytes s) := by
  rw [run_acked cmds (begin s) bus closed acks]
  rfl

theorem finishAck_run_acked {cmds : List Cmd} {s : State} (closed : s.i2cs = i2cClosed)
    (bus : busOf s.par s.ctlr.active = .i2c) (acks : acksAtOnce s (runBytes s.cfg.i2c cmds)) :
    finishAck (run cmds (begin s)) = .next (acknowledgedRun cmds [] s) := by
  rw [← finish_run_acked [] closed bus acks, emitAll_nil, finishAck]

theorem bothIdle_of_closed {s : State} (closed : s.i2cs = i2cClosed) (frame : s.tws.frame = .idle) : bothIdle s :=
  ⟨congrArg I2cState.bus closed, frame⟩

/-- The brightness command with the rules' bytes (R349, R356, R366). -/
theorem sendBrightness_default {s : State} (defaults : DefaultCommands s.par) :
    sendBrightness s = run (brightnessCmds s.par s.ctlr.active s.ctlr.bright s.ctlr.power) s := by
  rw [sendBrightness, brightCmd_eq defaults.brightness defaults.wiring]

/-- Settles O45. -/
theorem i2cBrightnessAndPower : Obligations.I2cBrightnessAndPower := by
  intro s defaults closed frame bus
  have idle := bothIdle_of_closed closed frame
  refine ⟨fun l level acks => ?_, fun on acks => ?_⟩
  · have written : DefaultCommands (setBright l (begin s)).par := defaults
    rw [exec_ctlSetBrightness_idle idle level, sendBrightness_default written]
    exact finishAck_run_acked (s := { s with ctlr := { s.ctlr with bright := l } }) closed bus acks
  · have written : DefaultCommands (setPower on (begin s)).par := defaults
    rw [exec_ctlSetPower_idle on idle, sendBrightness_default written]
    exact finishAck_run_acked (s := { s with ctlr := { s.ctlr with power := on } }) closed bus acks

/-! INIT. -/

theorem descOfBytes_four (ty a f k : Byte) : descOfBytes [ty, a, f, k] = k ++ f ++ a ++ ty := by
  show k.setWidth 32 <<< 24 ||| f.setWidth 32 <<< 16 ||| a.setWidth 32 <<< 8 ||| ty.setWidth 32 = _
  apply BitVec.eq_of_getLsbD_eq
  intro i inside
  simp only [BitVec.getLsbD_or, BitVec.getLsbD_shiftLeft, BitVec.getLsbD_setWidth, BitVec.getLsbD_append]
  grind

/-- ACTIVE after the probe: the descriptor's backend, or DUMMY where the probe over I2C failed (R241, R368). -/
theorem initProbed_active (s : State) :
    (initProbed s).ctlr.active = backendOf s.par s.ctlr.desc ∨
      (busOf s.par (backendOf s.par s.ctlr.desc) = .i2c ∧ (initProbed s).ctlr.active = .dummy) := by
  rcases (initProbed_steps s).active with backend | dummy
  · exact .inl backend
  · by_cases bus : busOf s.par (backendOf s.par s.ctlr.desc) = .i2c
    · exact .inr ⟨bus, dummy⟩
    · have head : (initHead s).par = s.par ∧ (initHead s).ctlr.active = backendOf s.par s.ctlr.desc := by
        rw [initHead_eq]
        exact ⟨rfl, rfl⟩
      have unprobed : probeTarget (initHead s) = initHead s := by
        rw [probeTarget, if_neg (by rwa [head.1, head.2])]
      rw [(initProbed_effect s).ctlr, unprobed]
      exact .inl head.2

theorem initBody_active (s : State) : (initBody s).2.ctlr.active = (initProbed s).ctlr.active := by
  rw [initBody_eq, (sendBrightness_steps _).effect.ctlr, (backendInit_steps _).effect.ctlr]

/-- The end of a command whose body was INIT (R241). -/
theorem InitSteps.initialised {s u : State} (steps : InitSteps (begin s) u) (ok : Bool)
    (cfg : u.cfg = addressed s.par s.ctlr.desc s.cfg)
    (active : u.ctlr.active = backendOf s.par s.ctlr.desc ∨
      (busOf s.par (backendOf s.par s.ctlr.desc) = .i2c ∧ u.ctlr.active = .dummy))
    (idle : bothIdle u) : Initialised s (finished (ackCode ok) u) :=
  { code := by cases ok <;> simp [ackCode]
    rxq := steps.rxq
    cfg := cfg
    registers := steps.ctlr
    active := active
    wbuf := steps.wbuf
    par := steps.par
    idle := idle }

/-- INIT completes and leaves what it says (R241). -/
theorem exec_ctlInit_initialised {s : State} (idle : bothIdle s) :
    ∃ t, exec (.ctlInit []) s = .next t ∧ Initialised s t := by
  have idleBegin : bothIdle (begin s) := idle
  refine ⟨_, exec_ctlInit_idle idle, (initBody_steps (begin s)).initialised _ (initBody_cfg (begin s)) ?_
    (bothIdle_initBody idleBegin)⟩
  rw [initBody_active]
  exact initProbed_active (begin s)

/-- Settles O46: the other two commands are INIT from the state with their registers written. -/
theorem initAlwaysCompletes : Obligations.InitAlwaysCompletes := by
  intro s idle
  refine ⟨exec_ctlInit_initialised idle, fun ty a f k r type written => ?_, fun r written => ?_⟩
  · have same : exec (.ctlSetDescriptor [ty, a, f, k]) s = exec (.ctlInit []) r := by
      rw [exec_ctlSetDescriptor_idle (txp := [ty, a, f, k]) idle rfl type, descOfBytes_four, written]
      rfl
    have idleAfter : bothIdle r := by
      rw [written]
      exact idle
    obtain ⟨t, next, initialised⟩ := exec_ctlInit_initialised idleAfter
    exact ⟨t, same.trans next, next, initialised⟩
  · have same : exec (.ctlReloadDefaults []) s = exec (.ctlInit []) r := by
      rw [exec_ctlReloadDefaults_idle idle, written]
      rfl
    have idleAfter : bothIdle r := by
      rw [written]
      exact idle
    obtain ⟨t, next, initialised⟩ := exec_ctlInit_initialised idleAfter
    exact ⟨t, same.trans next, next, initialised⟩

/-- A probe that is acknowledged leaves ACTIVE (R368). -/
theorem probeTarget_acked {s : State} (bus : busOf s.par s.ctlr.active = .i2c)
    (acks : acksAtOnce s (cmdBytes s.cfg.i2c (.w [] []))) :
    (busWrite [] [] s).1 = true ∧ probeTarget s = (busWrite [] [] s).2 := by
  have acked := busWrite_acked [] [] s bus acks
  refine ⟨by rw [acked], ?_⟩
  rw [probeTarget, if_pos bus, probe, acked]
  rfl

/-- INIT on I2C, its probe acknowledged, is one list of bus commands from its head (R241, R368). -/
theorem initBody_eq_run_probe {s : State} (defaults : DefaultCommands s.par)
    (bus : busOf s.par (backendOf s.par s.ctlr.desc) = .i2c)
    (acks : acksAtOnce s (cmdBytes (addressed s.par s.ctlr.desc s.cfg).i2c (.w [] []))) :
    initBody s = run (.w [] [] :: bringUpCmds s.par (backendOf s.par s.ctlr.desc) s.ctlr.desc s.ctlr.bright s.ctlr.power ++
      brightnessCmds s.par (backendOf s.par s.ctlr.desc) s.ctlr.bright s.ctlr.power) (initHead s) := by
  have head := initHead_eq s
  have headBus : busOf (initHead s).par (initHead s).ctlr.active = .i2c := by
    rw [head]
    exact bus
  have headAcks : acksAtOnce (initHead s) (cmdBytes (initHead s).cfg.i2c (.w [] [])) := by
    rw [head]
    exact acks
  obtain ⟨ok, probed⟩ := probeTarget_acked headBus headAcks
  have kept := (busWrite_steps [] [] (initHead s)).effect
  have notTw : busOf (probeTarget (initHead s)).par (probeTarget (initHead s)).ctlr.active ≠ .tw := by
    rw [probed, kept.par, kept.ctlr, headBus]
    decide
  have start : initProbed s = (busWrite [] [] (initHead s)).2 := by
    rw [initProbed, startByteCount, if_neg notTw, probed]
  have active : (initProbed s).ctlr.active = backendOf s.par s.ctlr.desc := by
    rw [start, kept.ctlr, head]
  have onBus : (initProbed s).ctlr.active ≠ .led ∨ busOf s.par .led = .i2c := by
    rw [active]
    by_cases led : backendOf s.par s.ctlr.desc = .led
    · exact .inr (led ▸ bus)
    · exact .inl led
  rw [initBody_eq_run onBus defaults.oled defaults.wiring, active, brightCmd_eq defaults.brightness defaults.wiring, start]
  simp only [List.cons_append, run, ok, Bool.true_and]

/-- Settles O48: INIT's list of bus commands, acknowledged. -/
theorem i2cInitAcknowledged : Obligations.I2cInitAcknowledged := by
  intro s r b cmds defaults closed frame backend bus written list acks
  subst backend
  have idle := bothIdle_of_closed closed frame
  have probeAcks : acksAtOnce s (cmdBytes (addressed s.par s.ctlr.desc s.cfg).i2c (.w [] [])) := by
    intro j hj
    refine acks j (Nat.lt_of_lt_of_le hj ?_)
    rw [list, written, List.cons_append, runBytes_cons]
    exact Nat.le_add_right _ _
  have head : initHead (begin s) = begin r := by
    rw [initHead_eq, written]
    rfl
  rw [exec_ctlInit_idle idle, initBody_eq_run_probe (s := begin s) defaults bus probeAcks, head]
  rw [list] at acks ⊢
  subst written
  exact finishAck_run_acked closed bus acks

end Sys2Proof.Machine
end

section
/-! PROOFS, family other: frames. A raw write reads its words back from the payload, lays them out and emits them; over TW in two
strobe frames, over I2C as a list of bus commands; a raw read is the backend's one read (42_controller.md R249 to R251; 44_backends.md
R347, R348, R350, R355). -/

namespace Sys2Proof.Machine

set_option Elab.async false

/-! Payload words. -/

theorem wordBytes_length (ws : List Word) : (wordBytes ws).length = 2 * ws.length := by
  simp [wordBytes, Nat.mul_comm]

theorem txpWord_cons_succ (a b : Byte) (bs : List Byte) (i : Nat) : txpWord (a :: b :: bs) (i + 1) = txpWord bs i := rfl

/-- The words are read back from their bytes; past the last there is 0. -/
theorem txpWord_wordBytes (ws : List Word) (i : Nat) : txpWord (wordBytes ws) i = ws.getD i 0 := by
  induction ws generalizing i with
  | nil => simp [wordBytes, txpWord, txpByte]
  | cons w ws ih =>
    cases i with
    | zero => exact word_of_bytes w
    | succ i => exact (txpWord_cons_succ _ _ _ i).trans (ih i)

/-- The raw frame of up to seven payload words, missing words 0 (R250). -/
theorem rawFrame_wordBytes (ws : List Word) :
    rawFrame ws.length (wordBytes ws) = Seven.ofFn (fun i => ws.getD i.val 0) := by
  refine congrArg Seven.ofFn (funext fun i => ?_)
  split
  · exact txpWord_wordBytes ws i.val
  · rw [List.getD_eq_default _ _ (by omega)]

theorem ofNat_toNat_of_le_seven {k : Nat} (few : k ≤ 7) : (BitVec.ofNat 12 k).toNat = k := by
  rw [BitVec.toNat_ofNat]
  exact Nat.mod_eq_of_lt (by omega)

/-! The layout. -/

/-- `lay_out` writes the physical frame into WBUF (R301, R307). -/
theorem layOut_eq (raw : Frame) (s : State) : layOut raw s = { s with wbuf := physicalFrame s raw } := by
  have frame : transform s (mergeIcons s.ctlr.icon raw) = physicalFrame s raw := by
    unfold transform physicalFrame
    cases s.ctlr.layout <;> rfl
  rw [layOut, frame]

theorem layOut_begin (raw : Frame) (s : State) : layOut raw (begin s) = begin { s with wbuf := physicalFrame s raw } :=
  layOut_eq raw (begin s)

/-- CTL.WRITE_RAW of up to seven words on LED, its frame laid out (R250). -/
theorem exec_ctlWriteRaw_words {ws : List Word} {s : State} (idle : bothIdle s) (active : s.ctlr.active = .led)
    (few : ws.length ≤ 7) :
    exec (.ctlWriteRaw (BitVec.ofNat 12 ws.length) (wordBytes ws)) s =
      finish (ackCode (ledEmit (begin { s with wbuf := physicalFrame s (Seven.ofFn (fun i => ws.getD i.val 0)) })).1)
        (emitAll [BitVec.ofNat 8 ws.length]
          (ledEmit (begin { s with wbuf := physicalFrame s (Seven.ofFn (fun i => ws.getD i.val 0)) })).2) := by
  have count := ofNat_toNat_of_le_seven few
  rw [exec_ctlWriteRaw_led idle active (by rw [wordBytes_length, count]) (by rwa [count]), count, rawFrame_wordBytes,
    layOut_begin, finishCount, count]
  rfl

/-- CTL.WRITE_DISPLAY_FRAME on LED, its frame laid out (R251). -/
theorem exec_ctlWriteDisplayFrame_laidOut {n : Len} {txp : List Byte} {s : State} (idle : bothIdle s)
    (active : s.ctlr.active = .led) (length : txp.length = n.toNat) (size : n.toNat = s.par.ddSize) :
    exec (.ctlWriteDisplayFrame n txp) s =
      finishAck (ledEmit (begin { s with wbuf := physicalFrame s (displayFrame s (ddDecode s.par txp)) })) := by
  have frame : displayFrame (begin s) (ddDecode s.par txp) = displayFrame s (ddDecode s.par txp) := rfl
  rw [exec_ctlWriteDisplayFrame_led idle active length size, frame, layOut_begin]

/-! LED over TW. -/

theorem dpAfterSent_dpAfterSent (m n : Nat) (dp : Datapath) : dpAfterSent n (dpAfterSent m dp) = dpAfterSent (m + n) dp := by
  unfold dpAfterSent
  rcases Nat.eq_zero_or_pos m with rfl | hm
  · simp
  · rcases Nat.eq_zero_or_pos n with rfl | hn
    · simp
    · simp [Nat.ne_of_gt hm, Nat.ne_of_gt hn, BitVec.ofNat_add, BitVec.add_assoc]

/-- A frame emission over TW: the data-setting frame and the address frame (R347). -/
theorem ledEmit_tw {s : State} (active : s.ctlr.active = .led) (bus : busOf s.par .led = .tw) :
    ledEmit s = (true,
      withEvents (twFrameEvents (d3 s) [s.par.twDataCmd] ++ twFrameEvents (d3 s) (s.par.twAddrCmd :: frameBytes s.wbuf))
        { s with dp := dpAfterSent 16 s.dp, tws := twClosed 15 s.tws }) := by
  have onTw : busOf s.par s.ctlr.active = .tw := by rw [active, bus]
  have first := twWriteFrame_eq [s.par.twDataCmd] s
  have emit : ledEmit s =
      (true, twWriteFrame (s.par.twAddrCmd :: frameBytes s.wbuf) (twWriteFrame [s.par.twDataCmd] s)) := by
    have later : busOf (twWriteFrame [s.par.twDataCmd] s).par (twWriteFrame [s.par.twDataCmd] s).ctlr.active = .tw := by
      rw [first]
      exact onTw
    simp only [ledEmit, bus, run, busWrite_tw onTw, busWrite_tw later, List.append_nil, Bool.and_true, List.singleton_append]
  have length : (s.par.twAddrCmd :: frameBytes s.wbuf).length = 15 := by rw [List.length_cons, frameBytes_length]
  rw [emit, first, twWriteFrame_eq, length]
  refine Prod.ext rfl (State.eq_of_fields (dpAfterSent_dpAfterSent 1 15 s.dp) rfl rfl rfl rfl rfl rfl rfl rfl rfl ?_ rfl)
  simp [d3]

/-- Settles O49: the two frames of WBUF, laid out from the payload or from the record. -/
theorem ledFramesOverTw : Obligations.LedFramesOverTw := by
  intro s sent idle active bus sentIs
  have emit (w : Frame) := ledEmit_tw (s := begin { s with wbuf := w }) active bus
  refine ⟨fun ws few => ?_, fun n txp dd length size decoded => ?_⟩
  · refine (exec_ctlWriteRaw_words idle active few).trans ?_
    rw [emit, sentIs]
    rfl
  · rw [exec_ctlWriteDisplayFrame_laidOut idle active length size, emit, sentIs, decoded]
    rfl

/-! I2C. -/

/-- A frame emission over I2C (R348). -/
theorem ledEmit_i2c {s : State} (bus : busOf s.par .led = .i2c) : ledEmit s = run (ledI2cEmit s.par s.wbuf) s := by
  rw [ledEmit, bus]

/-- One character at a column of the LCD in the default wiring (R355). -/
theorem lcdPut_default {p : Params} (wiring : p.lcdMap = defaultLcdMap) (power : Bool) (col ch : Byte) :
    lcdPut p power col ch = lcdByteCmds p (lcdBl power) 0 (0x80 ||| col) ++ lcdByteCmds p (lcdBl power) 1 ch := by
  rw [lcdPut, lcdWrite8_default wiring, lcdWrite8_default wiring]
  rfl

/-- CTL.WRITE_RAW of up to seven words on the LCD (R250, R355). -/
theorem exec_ctlWriteRaw_lcd {ws : List Word} {s : State} (idle : bothIdle s) (active : s.ctlr.active = .lcd)
    (few : ws.length ≤ 7) :
    exec (.ctlWriteRaw (BitVec.ofNat 12 ws.length) (wordBytes ws)) s =
      finish (ackCode (run (lcdRawCmds s (Seven.ofFn (fun i => ws.getD i.val 0)) ws.length) (begin s)).1)
        (emitAll [BitVec.ofNat 8 ws.length]
          (run (lcdRawCmds s (Seven.ofFn (fun i => ws.getD i.val 0)) ws.length) (begin s)).2) := by
  have count := ofNat_toNat_of_le_seven few
  rw [exec_ctlWriteRaw_idle idle (by rw [wordBytes_length, count]), count, if_neg (Nat.not_lt.mpr few), active,
    rawFrame_wordBytes]
  dsimp only
  rw [finishCount, count]
  rfl

/-- Settles O50. -/
theorem i2cFramesAcknowledged : Obligations.I2cFramesAcknowledged := by
  intro s defaults closed frame
  have idle := bothIdle_of_closed closed frame
  have emit (bus : busOf s.par .led = .i2c) (w : Frame) :
      ledEmit (begin { s with wbuf := w }) = run (ledI2cEmit s.par w) (begin { s with wbuf := w }) := ledEmit_i2c bus
  refine ⟨fun ws bl colon put cmds active bus few blIs colonIs putIs list acks => ?_,
    fun ws w active bus few laidOut acks => ?_,
    fun n txp w active bus length size laidOut acks => ?_⟩
  · have same : lcdRawCmds s (Seven.ofFn (fun i => ws.getD i.val 0)) ws.length = cmds := by
      obtain rfl : put = lcdPut s.par s.ctlr.power := by
        funext col ch
        rw [putIs, lcdPut_default defaults.wiring, blIs]
        rfl
      have flipped : colon = if (ws.getD 0 0 ||| s.ctlr.icon) &&& dotMask s iconColon ≠ 0 then 0x3A else 0x20 := by
        rw [colonIs, ite_not]
      rw [list, flipped]
      rfl
    refine (exec_ctlWriteRaw_lcd idle active few).trans ?_
    rw [same]
    exact finish_run_acked _ closed (by rwa [active]) acks
  · refine (exec_ctlWriteRaw_words idle active few).trans ?_
    rw [emit bus, ← laidOut]
    exact finish_run_acked (s := { s with wbuf := w }) _ closed (show busOf s.par s.ctlr.active = .i2c by rwa [active]) acks
  · rw [exec_ctlWriteDisplayFrame_laidOut idle active length size, emit bus, ← laidOut]
    exact finishAck_run_acked (s := { s with wbuf := w }) closed (show busOf s.par s.ctlr.active = .i2c by rwa [active]) acks

/-! READ_RAW. -/

/-- CTL.READ_RAW past its checks (R249). -/
theorem exec_ctlReadRaw_idle (n : Len) {s : State} (idle : bothIdle s) :
    exec (.ctlReadRaw n []) s = finishRead (rawRead n.toNat (begin s)) := by
  show execCtlReadRaw n [] s = _
  rw [execCtlReadRaw, controller_runs idle List.length_nil]

theorem rawRead_eq {n : Nat} {s : State} (active : s.ctlr.active ≠ .dummy) :
    rawRead n s = busRead (readCmd s.par s.ctlr.active) n s := by
  unfold rawRead
  cases h : s.ctlr.active with
  | dummy => exact absurd h active
  | _ => rfl

theorem readCmd_default {p : Params} (none : p.readCmd = []) (b : Backend) :
    readCmd p b = if b = .led then [0x42] else [] := by
  cases b <;> simp [readCmd, none]

/-- Settles O51, bus by bus. -/
theorem readRawReadsTheTarget : Obligations.ReadRawReadsTheTarget := by
  intro s n defaults
  refine ⟨fun active bus idle => ?_, fun cs k active bus command requested idle => ?_⟩
  · have read : exec (.ctlReadRaw n []) s =
        finishRead (true, twReadFrame [0x42] n.toNat (begin s)) := by
      rw [exec_ctlReadRaw_idle n idle, rawRead_eq (by simp [active]), begin_par, begin_ctlr, readCmd_default defaults.reads,
        if_pos active, busRead, begin_par, begin_ctlr, active, bus]
    rw [read]
    refine ⟨fun zero => ?_, fun nonzero dir => ?_⟩
    · subst zero
      rfl
    · rw [twReadFrame_eq [0x42] n.toNat (begin s) (BitVec.toNat_pos_of_ne_zero nonzero) dir]
      rfl
  · have read : exec (.ctlReadRaw n []) s = finishRead (i2cReadTransfer cs n.toNat (begin s)) := by
      rw [exec_ctlReadRaw_idle n idle, rawRead_eq (s := begin s) active, begin_par, begin_ctlr, readCmd_default defaults.reads,
        ← command, busRead, begin_par, begin_ctlr, bus]
    rw [read]
    refine ⟨fun zero => ?_, fun nonzero acks => ?_⟩
    · subst zero
      rfl
    · subst requested
      rw [i2cReadTransfer_acked cs n.toNat (begin s) (BitVec.toNat_pos_of_ne_zero nonzero).ne' acks]
      rfl

end Sys2Proof.Machine
end

section
/-! PROOFS, family other: bus failures undo nothing, and the OLED window port. A bus step keeps every register whatever the target
answers, so what a command wrote before it stands (42_controller.md R260); acknowledged, the port's commands are lists of bus commands
(44_backends.md R357 to R365). -/

namespace Sys2Proof.Machine

set_option Elab.async false

/-! What bus steps keep, whatever the target answers. -/

/-- The registers of a controller command after its bus steps: as before, with both engines idle if they were. -/
structure BusKept (v u : State) : Prop where
  cfg : u.cfg = v.cfg
  par : u.par = v.par
  ctlr : u.ctlr = v.ctlr
  wbuf : u.wbuf = v.wbuf
  rxq : u.rxq = v.rxq
  idle : bothIdle v → bothIdle u

theorem BusKept.refl (v : State) : BusKept v v := ⟨rfl, rfl, rfl, rfl, rfl, id⟩

theorem BusKept.trans {v u w : State} (a : BusKept v u) (b : BusKept u w) : BusKept v w :=
  ⟨b.cfg.trans a.cfg, b.par.trans a.par, b.ctlr.trans a.ctlr, b.wbuf.trans a.wbuf, b.rxq.trans a.rxq,
    fun h => b.idle (a.idle h)⟩

theorem BusSteps.kept {v u : State} (steps : BusSteps v u) (idle : bothIdle v → bothIdle u) : BusKept v u :=
  ⟨steps.effect.cfg, steps.effect.par, steps.effect.ctlr, steps.effect.wbuf, steps.effect.rxq, idle⟩

/-- A bus command ends with its bus idle and leaves the other engine alone (R143, R185). -/
theorem busWrite_kept (cs ds : List Byte) (s : State) : BusKept s (busWrite cs ds s).2 := by
  refine (busWrite_steps cs ds s).kept fun idle => ?_
  obtain ⟨bus, frame⟩ := idle
  unfold busWrite
  split
  · rw [twWriteFrame_eq]
    exact ⟨bus, rfl⟩
  · refine ⟨rfl, ?_⟩
    rw [(i2cWrite_steps (cs ++ ds) (clearAcked s)).tws]
    exact frame
  · exact ⟨bus, frame⟩

theorem run_kept (cmds : List Cmd) (s : State) : BusKept s (run cmds s).2 := by
  induction cmds generalizing s with
  | nil => exact .refl s
  | cons c cmds ih =>
    cases c with
    | w cs ds => exact (busWrite_kept cs ds s).trans (ih _)
    | d n =>
      have waited : BusKept s (delay n s) := ⟨rfl, rfl, rfl, rfl, rfl, id⟩
      exact waited.trans (ih _)

theorem twReadFrame_frame (cs : List Byte) (n : Nat) {s : State} (idle : s.tws.frame = .idle) :
    (twReadFrame cs n s).2.tws.frame = .idle := by
  unfold twReadFrame
  split
  · exact idle
  · rfl

theorem busRead_kept (cs : List Byte) (n : Nat) (s : State) : BusKept s (busRead cs n s).2.2 := by
  refine (busRead_steps cs n s).kept fun idle => ?_
  obtain ⟨bus, frame⟩ := idle
  unfold busRead
  split
  · refine ⟨?_, twReadFrame_frame cs n frame⟩
    rw [(twReadFrame_steps cs n s).i2cs]
    exact bus
  · refine ⟨?_, ?_⟩
    · by_cases none : n = 0
      · subst none
        exact bus
      · rw [i2cReadTransfer_closed cs n s none]
        rfl
    · rw [(i2cReadTransfer_steps cs n s).tws]
      exact frame
  · exact ⟨bus, frame⟩

theorem rawRead_kept (n : Nat) (s : State) : BusKept s (rawRead n s).2.2 := by
  by_cases active : s.ctlr.active = .dummy
  · rw [rawRead, active]
    exact .refl s
  · rw [rawRead_eq active]
    exact busRead_kept _ n s

theorem ledEmit_kept (s : State) : BusKept s (ledEmit s).2 := by
  unfold ledEmit
  split
  · exact run_kept _ s
  · exact run_kept _ s
  · exact .refl s

/-! The end of a command. -/

theorem ackCode_cases (ok : Bool) : ackCode ok = .ok ∨ ackCode ok = .ackf := by
  cases ok <;> simp [ackCode]

/-- A controller command that finishes after its bus steps, from the state its register writes left (R260). -/
theorem BusKept.ended {s v u : State} (kept : BusKept (begin v) u) (cfg : v.cfg = s.cfg) (par : v.par = s.par)
    (idle : bothIdle v) (ok : Bool) (bytes : List Byte) :
    BusEnded s (finished (ackCode ok) (emitAll bytes u)) ∧ (finished (ackCode ok) (emitAll bytes u)).rxq = bytes ∧
      (finished (ackCode ok) (emitAll bytes u)).wbuf = v.wbuf ∧ (finished (ackCode ok) (emitAll bytes u)).ctlr = v.ctlr := by
  have empty : u.rxq = [] := kept.rxq
  exact ⟨⟨ackCode_cases ok, kept.cfg.trans cfg, kept.par.trans par, kept.idle idle⟩, by simp [empty], kept.wbuf, kept.ctlr⟩

/-- The same for a command with no result bytes. -/
theorem BusKept.endedSilent {s v u : State} (kept : BusKept (begin v) u) (cfg : v.cfg = s.cfg) (par : v.par = s.par)
    (idle : bothIdle v) (ok : Bool) :
    BusEnded s (finished (ackCode ok) u) ∧ (finished (ackCode ok) u).rxq = [] ∧
      (finished (ackCode ok) u).wbuf = v.wbuf ∧ (finished (ackCode ok) u).ctlr = v.ctlr := by
  rw [← emitAll_nil u]
  exact kept.ended cfg par idle ok []

/-- How many bytes a raw read returns (R249, R193). -/
theorem rawRead_length (n : Nat) (s : State) :
    (rawRead n s).2.1.length =
      if (rawRead n s).1 = true ∧ s.ctlr.active ≠ .dummy ∧ busOf s.par s.ctlr.active ≠ .none then n else 0 := by
  by_cases active : s.ctlr.active = .dummy
  · rw [rawRead, active]
    simp
  · rw [rawRead_eq active, busRead]
    cases bus : busOf s.par s.ctlr.active with
    | tw => simp [active, twReadFrame_length]
    | i2c => simp [active, i2cReadTransfer_length]
    | none => simp

theorem ackCode_eq_ok (ok : Bool) : ackCode ok = .ok ↔ ok = true := by
  cases ok <;> simp [ackCode]

/-- An OLED command whose effect is a list of bus commands (R362 to R365). -/
theorem finishAck_run_ended (cmds : List Cmd) {s : State} (idle : bothIdle s) :
    ∃ t, finishAck (run cmds (begin s)) = .next t ∧ BusEnded s t ∧ t.ctlr = s.ctlr ∧ t.rxq = [] ∧ t.wbuf = s.wbuf := by
  obtain ⟨ended, rxq, wbuf, ctlr⟩ := (run_kept cmds (begin s)).endedSilent rfl rfl idle (run cmds (begin s)).1
  exact ⟨_, rfl, ended, ctlr, rxq, wbuf⟩

/-- OLED.WINDOW inside the panel, with as many bytes as its area (R364). -/
theorem exec_oledWindow_runs {n : Len} {c0 c1 p0 p1 : Byte} {data : List Byte} {s : State} (idle : bothIdle s)
    (active : s.ctlr.active = .oledA ∨ s.ctlr.active = .oledB) (length : data.length = n.toNat) (hc : c0 ≤ c1)
    (hcols : c1.toNat < s.par.oledCols) (hp : p0 ≤ p1) (hbanks : p1.toNat < s.par.oledBanks)
    (area : n.toNat = (c1.toNat - c0.toNat + 1) * (p1.toNat - p0.toNat + 1)) :
    exec (.oledWindow n (c0 :: c1 :: p0 :: p1 :: data)) s =
      finishAck (run (oledWindow s.par (revOf s.ctlr.active) c0 c1 p0 p1 data) (begin s)) := by
  have inside := (windowInside_iff s.par c0 c1 p0 p1).2 ⟨hc, hcols, hp, hbanks⟩
  rw [exec_oledWindow_oled idle active length]
  exact (if_pos inside).trans (if_pos area)

theorem exec_oledCmd_runs {n : Len} {txp : List Byte} {s : State} (idle : bothIdle s)
    (active : s.ctlr.active = .oledA ∨ s.ctlr.active = .oledB) (length : txp.length = n.toNat) :
    exec (.oledCmd n txp) s = finishAck (run [oledCmd txp] (begin s)) := by
  rw [exec_oledCmd_idle idle length, onOled_oled active]

theorem exec_oledData_runs {n : Len} {txp : List Byte} {s : State} (idle : bothIdle s)
    (active : s.ctlr.active = .oledA ∨ s.ctlr.active = .oledB) (length : txp.length = n.toNat) :
    exec (.oledData n txp) s = finishAck (run [oledData txp] (begin s)) := by
  rw [exec_oledData_idle idle length, onOled_oled active]

theorem exec_oledClear_runs {s : State} (idle : bothIdle s) (active : s.ctlr.active = .oledA ∨ s.ctlr.active = .oledB) :
    exec (.oledClear []) s = finishAck (run (oledClear s.par (revOf s.ctlr.active)) (begin s)) := by
  rw [exec_oledClear_idle idle, onOled_oled active]
  rfl

/-- CTL.WRITE_RAW on LED and LCD, whatever the target answers (R250). -/
theorem exec_ctlWriteRaw_ended {ws : List Word} {s : State} (idle : bothIdle s) (few : ws.length ≤ 7)
    (active : s.ctlr.active = .led ∨ s.ctlr.active = .lcd) :
    ∃ t, exec (.ctlWriteRaw (BitVec.ofNat 12 ws.length) (wordBytes ws)) s = .next t ∧ BusEnded s t ∧ t.ctlr = s.ctlr ∧
      t.rxq = [BitVec.ofNat 8 ws.length] ∧
      t.wbuf = if s.ctlr.active = .led then physicalFrame s (Seven.ofFn (fun i => ws.getD i.val 0)) else s.wbuf := by
  rcases active with led | lcd
  · rw [exec_ctlWriteRaw_words idle led few, if_pos led]
    obtain ⟨ended, rxq, wbuf, ctlr⟩ :=
      (ledEmit_kept (begin { s with wbuf := physicalFrame s (Seven.ofFn (fun i => ws.getD i.val 0)) })).ended
        (s := s) rfl rfl idle (ledEmit _).1 [BitVec.ofNat 8 ws.length]
    exact ⟨_, rfl, ended, ctlr, rxq, wbuf⟩
  · rw [exec_ctlWriteRaw_lcd idle lcd few, if_neg (by simp [lcd])]
    obtain ⟨ended, rxq, wbuf, ctlr⟩ :=
      (run_kept (lcdRawCmds s (Seven.ofFn (fun i => ws.getD i.val 0)) ws.length) (begin s)).ended
        rfl rfl idle (run _ _).1 [BitVec.ofNat 8 ws.length]
    exact ⟨_, rfl, ended, ctlr, rxq, wbuf⟩

/-- Settles O52, command by command: each writes its registers and then takes bus steps. -/
theorem registerWritesSurviveBusFailures : Obligations.RegisterWritesSurviveBusFailures := by
  intro s idle
  refine ⟨fun l level => ?_, fun on => ?_, fun n => ?_, fun ws few active => exec_ctlWriteRaw_ended idle few active,
    fun n txp length => ⟨fun size active => ?_, fun active => ⟨?_, ?_, ?_, fun c0 c1 p0 p1 hc hcols hp hbanks area => ?_⟩⟩⟩
  · rw [exec_ctlSetBrightness_idle idle level]
    obtain ⟨ended, rxq, wbuf, ctlr⟩ := (run_kept _ (begin (setBright l s))).endedSilent (s := s) rfl rfl idle
      (sendBrightness (begin (setBright l s))).1
    exact ⟨_, rfl, ended, rxq, wbuf, ctlr⟩
  · rw [exec_ctlSetPower_idle on idle]
    obtain ⟨ended, rxq, wbuf, ctlr⟩ := (run_kept _ (begin (setPower on s))).endedSilent (s := s) rfl rfl idle
      (sendBrightness (begin (setPower on s))).1
    exact ⟨_, rfl, ended, rxq, wbuf, ctlr⟩
  · rw [exec_ctlReadRaw_idle n idle]
    obtain ⟨ended, rxq, wbuf, ctlr⟩ := (rawRead_kept n.toNat (begin s)).ended rfl rfl idle (rawRead n.toNat (begin s)).1
      (rawRead n.toNat (begin s)).2.1
    refine ⟨_, rfl, ended, wbuf, ctlr, ?_⟩
    rw [rxq, rawRead_length]
    exact if_congr (and_congr (ackCode_eq_ok _).symm Iff.rfl) rfl rfl
  · rw [exec_ctlWriteDisplayFrame_laidOut idle active length size]
    obtain ⟨ended, rxq, wbuf, ctlr⟩ :=
      (ledEmit_kept (begin { s with wbuf := physicalFrame s (displayFrame s (ddDecode s.par txp)) })).endedSilent
        (s := s) rfl rfl idle (ledEmit _).1
    exact ⟨_, rfl, ended, ctlr, rxq, wbuf⟩
  · rw [exec_oledCmd_runs idle active length]
    exact finishAck_run_ended _ idle
  · rw [exec_oledData_runs idle active length]
    exact finishAck_run_ended _ idle
  · rw [exec_oledClear_runs idle active]
    exact finishAck_run_ended _ idle
  · rw [exec_oledWindow_runs idle active length hc hcols hp hbanks area]
    exact finishAck_run_ended _ idle

/-! The OLED window port, acknowledged. -/

theorem revOf_oledA {b : Backend} (h : b = .oledA) : revOf b = .a := if_pos h

theorem revOf_oledB {b : Backend} (h : b = .oledB) : revOf b = .b := if_neg (by simp [h])

/-- The window of revision B, one page command and one row of data a page (R361). -/
theorem oledWindow_b {c0 c1 p0 p1 : Byte} (p : Params) (data : List Byte) {width : Nat} (hc : c0 ≤ c1) (hp : p0 ≤ p1)
    (columns : width = c1.toNat - c0.toNat + 1) :
    oledWindow p .b c0 c1 p0 p1 data = (List.range (p1.toNat - p0.toNat + 1)).flatMap (fun i =>
      [.w [0x00]
          [0xB0 ||| byteOfNat (p0.toNat + i), byteOfNat ((c0.toNat + p.oledColOff) % 16),
            0x10 ||| byteOfNat ((c0.toNat + p.oledColOff) / 16)],
        .w [0x40] ((data.drop (i * width)).take width)]) := by
  rw [BitVec.le_def] at hc hp
  have width' : c1.toNat + 1 - c0.toNat = width := by omega
  have pages : p1.toNat + 1 - p0.toNat = p1.toNat - p0.toNat + 1 := by omega
  show oledWindowB p c0 c1 p0 p1 data = _
  simp only [oledWindowB, width', pages]
  rfl

/-- Settles O54, command by command. -/
theorem oledPortAcknowledged : Obligations.OledPortAcknowledged := by
  intro s ran closed frame active bus ranIs
  have idle := bothIdle_of_closed closed frame
  refine ⟨fun n txp length => ⟨fun acks => ?_, fun acks => ?_⟩,
    fun n c0 c1 p0 p1 data cmds width length hc hcols hp hbanks area columns revA revB acks => ?_, fun cmds revA revB acks => ?_⟩
  · rw [exec_oledCmd_runs idle active length, ranIs]
    exact finishAck_run_acked closed bus acks
  · rw [exec_oledData_runs idle active length, ranIs]
    exact finishAck_run_acked closed bus acks
  · have list : oledWindow s.par (revOf s.ctlr.active) c0 c1 p0 p1 data = cmds := by
      rcases active with a | b
      · rw [revOf_oledA a, revA a]
        rfl
      · rw [revOf_oledB b, revB b, oledWindow_b s.par data hc hp columns]
    rw [exec_oledWindow_runs idle active length hc hcols hp hbanks area, ranIs, list]
    exact finishAck_run_acked closed bus acks
  · have list : oledClear s.par (revOf s.ctlr.active) = cmds := by
      rcases active with a | b
      · rw [revOf_oledA a, revA a]
        rfl
      · rw [revOf_oledB b, revB b]
        rfl
    rw [exec_oledClear_runs idle active, ranIs, list]
    exact finishAck_run_acked closed bus acks

end Sys2Proof.Machine
end
